-- ==== Sys2Proof/Word.lean ====
section
/-! DEFINITION. The word types of the machine and the plainest arithmetic on them (spec/00_scope.md R10, R11). -/

namespace Sys2Proof

/-- The addressable unit (spec/10_state.md R40). -/
abbrev Byte := BitVec 8

/-- A general register, the program counter, an instruction word or a virtual address (R10, R21, R23). -/
abbrev Word := BitVec 32

/-- A Physical Address Register (R29: "This is a 64-bit register"). -/
abbrev DWord := BitVec 64

/-- An output address, a PA or an IPA: at most 40 bits (R10, R40). -/
abbrev OutAddr := BitVec 40

/-- One past the last byte address a 32-bit program counter can form. -/
abbrev addressSpace : Nat := 2 ^ 32

/-- The low word of a 64-bit value, `v[31:0]`. -/
def DWord.low (v : DWord) : Word := v.extractLsb' 0 32

/-- The high word of a 64-bit value, `v[63:32]`. -/
def DWord.high (v : DWord) : Word := v.extractLsb' 32 32

end Sys2Proof
end

