-- ==== Sys2Proof/Config.lean ====
section
/-! DEFINITION. What an implementation fixes (the record `Cfg` of spec/00_scope.md R8), what passes between the PE and
the translation oracle (spec/40_at_common.md R104, R106), what a PAR result holds (spec/45_par_format.md R185, R186), and
the free values: opaque constants without a body, of which nothing can be proved but what their type says. -/

namespace Sys2Proof

/-- Whether a PAR result is visible without a context synchronization event (R8, R256). -/
inductive ParSync where
  | immediate
  /-- "the default a reader should take" (R256). -/
  | needsContextSync
  deriving DecidableEq, Repr

/-- The two kinds of External abort on a walk (R205, R206). -/
inductive AbortKind where
  | sync
  | async
  deriving DecidableEq, Repr

/-- Where a Data Abort exception is taken (spec/46_at_faults.md R207). -/
inductive AbortRoute where
  /-- Secure Abort mode or Monitor mode. -/
  | toSecure
  /-- Non-secure Abort mode. -/
  | toNonSecure
  /-- Hyp mode. -/
  | toHyp
  /-- EL3 using AArch64; its registers are outside the model (R205, R206). -/
  | toEL3AArch64
  deriving DecidableEq, Repr

/-- Which instantiation of `Cfg.PackPAR` the implementation has (R186): the general-knowledge layouts of R187 and R188,
or any other that satisfies R190 (the free value `Config.otherPacking`). DESIGN CHOICE (assumption 4), safe: a claim over
every state ranges over both, and a claim about bit positions names `generalKnowledge` as its premise. -/
inductive PackChoice where
  | generalKnowledge
  | other
  deriving DecidableEq, Repr

/-- The configuration record (R7, R8). Nothing in it changes while the PE runs; it stands in `State` as plain data
(assumption 1). `Attrs` is the type below, and `AbortRoute` is its two values. -/
structure Cfg where
  /-- The implementation includes EL2, which then uses AArch32 (R9(a)). -/
  haveEL2 : Bool
  /-- The implementation includes EL3. -/
  haveEL3 : Bool
  /-- EL3 is using AArch32; read only when `haveEL3`. -/
  el3IsAArch32 : Bool
  /-- FEAT_PAN2 is implemented. -/
  havePAN2 : Bool
  packPAR : PackChoice
  parSync : ParSync
  /-- `AbortRoute(Sync)` (R207). -/
  syncRoute : AbortRoute
  /-- `AbortRoute(Async)` (R207). -/
  asyncRoute : AbortRoute
  deriving DecidableEq, Repr

/-- `Cfg.AbortRoute(kind)` (R207). -/
def Cfg.abortRoute (c : Cfg) : AbortKind → AbortRoute
  | .sync => c.syncRoute
  | .async => c.asyncRoute

/-! ### The translation interface -/

/-- The translation regimes a request can name (R104). -/
inductive Regime where
  | securePL10
  | nonSecurePL10
  | nonSecureEL2
  deriving DecidableEq, Repr

/-- The stages a request asks for (R104). -/
inductive Stages where
  | s1Only
  | s1AndS2
  deriving DecidableEq, Repr

/-- The request handed to the oracle (R104). -/
structure ATRequest where
  regime : Regime
  stages : Stages
  va : Word
  write : Bool
  unpriv : Bool
  pan : Option (BitVec 1)
  deriving DecidableEq, Repr

/-- The attributes the 32-bit format shows (R187). -/
structure Attrs32 where
  nos : BitVec 1
  ns : BitVec 1
  impdef : BitVec 1
  sh : BitVec 1
  inner : BitVec 3
  outer : BitVec 2
  ss : BitVec 1
  deriving DecidableEq, Repr, Inhabited

/-- The attributes the 64-bit format shows (R188). -/
structure Attrs64 where
  attr : BitVec 8
  impdef : BitVec 1
  ns : BitVec 1
  sh : BitVec 2
  deriving DecidableEq, Repr, Inhabited

/-- The memory attributes of a successful translation, opaque to every rule but the packing (R106). They carry what
each general-knowledge layout shows and 64 further bits that only another packing reads, so that no layout of 64 bits is
shut out (assumption 5). -/
structure Attrs where
  short : Attrs32
  long : Attrs64
  further : BitVec 64
  deriving DecidableEq, Repr, Inhabited

/-- The stage whose fault it is (R106). -/
inductive Stage where
  | one
  | two
  deriving DecidableEq, Repr, Inhabited

/-- An answer of the translation oracle (R106). -/
inductive ATAnswer where
  /-- The translation succeeded. -/
  | ok (oa : OutAddr) (attrs : Attrs)
  /-- An MMU fault; `ipa` is meaningful only when `stage` is two. -/
  | fault (stage : Stage) (onWalk : Bool) (code : BitVec 6) (ipa : OutAddr)
  /-- A synchronous External abort on the walk. -/
  | syncExternalAbort
  /-- An asynchronous External abort on the walk. -/
  | asyncExternalAbort
  deriving DecidableEq, Repr, Inhabited

/-! ### PAR results and their packing -/

/-- The two layouts of a result in PAR (R180). -/
inductive ParFmt where
  | f32
  | f64
  deriving DecidableEq, Repr

/-- A result that is written to PAR (R185). -/
inductive ParResult where
  | ok (oa : OutAddr) (attrs : Attrs)
  | fault (stage : Stage) (onWalk : Bool) (code : BitVec 6)
  deriving DecidableEq, Repr

/-- An instantiation of `Cfg.PackPAR`, one function per format (R186). -/
structure Packing where
  pack32 : ParResult → BitVec 32
  pack64 : ParResult → BitVec 64

/-- What every instantiation must satisfy (R190). (a): a fault result and a success of one format never pack to the same
bits. (b): the output address can be recovered from a packed success "to the extent the format can hold it", said as:
equal packed successes have equal addresses to that extent. The extent is `oa[39:12]` in the 64-bit format and `oa[31:12]`
in the 32-bit one, but for a supersection (`ss = 1`), where the 32-bit format need hold `oa[31:24]` only: GK4 has a form
that returns PA[39:24] there, "a reader must not assume absent". This reading of the extent is PRESUMED (R65, GK4;
assumption 4). -/
structure Packing.Lawful (p : Packing) : Prop where
  fault_ne_ok32 : ∀ st w c oa a, p.pack32 (.fault st w c) ≠ p.pack32 (.ok oa a)
  fault_ne_ok64 : ∀ st w c oa a, p.pack64 (.fault st w c) ≠ p.pack64 (.ok oa a)
  top32 : ∀ oa a oa' a', p.pack32 (.ok oa a) = p.pack32 (.ok oa' a') →
    oa.extractLsb' 24 8 = oa'.extractLsb' 24 8
  page32 : ∀ oa a oa' a', p.pack32 (.ok oa a) = p.pack32 (.ok oa' a') → a.short.ss = 0 → a'.short.ss = 0 →
    oa.extractLsb' 12 20 = oa'.extractLsb' 12 20
  page64 : ∀ oa a oa' a', p.pack64 (.ok oa a) = p.pack64 (.ok oa' a') →
    oa.extractLsb' 12 28 = oa'.extractLsb' 12 28

/-- An instantiation together with R190. -/
abbrev LawfulPacking := { p : Packing // p.Lawful }

/-! ### The free values -/

/-- `UNKNOWN(N)`: "a free bits(N) value chosen afresh at each use, under no law" (R12). The step applies it to the draw
counter of `State`, which it advances at each use (assumption 2). -/
opaque Config.unknown : (width : Nat) → (drawn : Nat) → BitVec width

/-- `Oracle.AT(req)` for a request that no answer held in `State` answers (R106, R109: no determinism assumed, so it may
depend on the draw counter; assumption 3). -/
opaque Config.oracleAT : (drawn : Nat) → ATRequest → ATAnswer

/-- An arbitrary choice among the packings that satisfy R190: `otherPacking p`, for any one lawful `p`, may be any lawful
packing (R186; assumption 4). -/
opaque Config.otherPacking : Equiv.Perm LawfulPacking

end Sys2Proof
end

