-- ==== Sys2Proof/Syntax.lean ====
section
/-! DEFINITION. The instructions: one constructor per row of spec/opcode_table.json (spec/00_scope.md R2), and the
operation record an address translation name stands for (spec/40_at_common.md R101). -/

namespace Sys2Proof

/-- A general register operand, `x[0]` to `x[14]` (R21). Register 15 is the PC and is no general register: an encoding
with `Rt = 15` or `Rt2 = 15` is refused by the decoder (R84, R85), so no instruction holds it. -/
abbrev Reg := Fin 15

/-- The three families of address translation instructions (R2). -/
inductive ATFamily where
  /-- Stage 1, current Security state. -/
  | ats1c
  /-- Stages 1 and 2, Non-secure state only. -/
  | ats12nso
  /-- Stage 1, Hyp mode. -/
  | ats1h
  deriving DecidableEq, Repr

/-- What a name's family and final letters fix (R94, R101). -/
structure ATOp where
  family : ATFamily
  /-- The translation User mode would get (letter U; spec/90_conflicts.md C5). -/
  unpriv : Bool
  /-- The write operation (letter W). -/
  write : Bool
  /-- "taking account of PSTATE.PAN" (final letter P). -/
  pan : Bool
  deriving DecidableEq, Repr

/-- The seventeen instructions. `t` is `Rt`, `t2` is `Rt2` (R84, R85). -/
inductive Instr where
  /-- `MCR p15, 0, Rt, c7, c8, 0`: PL1 stage 1 read translation, current state (R121). -/
  | ats1cpr (t : Reg)
  /-- `MCR p15, 0, Rt, c7, c8, 1`: PL1 stage 1 write translation, current state (R122). -/
  | ats1cpw (t : Reg)
  /-- `MCR p15, 0, Rt, c7, c8, 2`: unprivileged stage 1 read translation, current state (R123). -/
  | ats1cur (t : Reg)
  /-- `MCR p15, 0, Rt, c7, c8, 3`: unprivileged stage 1 write translation, current state (R124). -/
  | ats1cuw (t : Reg)
  /-- `MCR p15, 0, Rt, c7, c9, 0`: as `ats1cpr`, taking account of PSTATE.PAN (R125). -/
  | ats1cprp (t : Reg)
  /-- `MCR p15, 0, Rt, c7, c9, 1`: as `ats1cpw`, taking account of PSTATE.PAN (R126). -/
  | ats1cpwp (t : Reg)
  /-- `MCR p15, 0, Rt, c7, c8, 4`: Non-secure PL1 stage 1 and 2 read translation (R141). -/
  | ats12nsopr (t : Reg)
  /-- `MCR p15, 0, Rt, c7, c8, 5`: Non-secure PL1 stage 1 and 2 write translation (R142). -/
  | ats12nsopw (t : Reg)
  /-- `MCR p15, 0, Rt, c7, c8, 6`: Non-secure unprivileged stage 1 and 2 read translation (R143). -/
  | ats12nsour (t : Reg)
  /-- `MCR p15, 0, Rt, c7, c8, 7`: Non-secure unprivileged stage 1 and 2 write translation (R144). -/
  | ats12nsouw (t : Reg)
  /-- `MCR p15, 4, Rt, c7, c8, 0`: Hyp mode stage 1 read translation (R161). -/
  | ats1hr (t : Reg)
  /-- `MCR p15, 4, Rt, c7, c8, 1`: Hyp mode stage 1 write translation (R162). -/
  | ats1hw (t : Reg)
  /-- `MRC p15, 0, Rt, c7, c4, 0`: 32-bit read of PAR (R170). -/
  | parRead32 (t : Reg)
  /-- `MCR p15, 0, Rt, c7, c4, 0`: 32-bit write of PAR (R171). -/
  | parWrite32 (t : Reg)
  /-- `MRRC p15, 0, Rt, Rt2, c7`: 64-bit read of PAR (R172). -/
  | parRead64 (t t2 : Reg)
  /-- `MCRR p15, 0, Rt, Rt2, c7`: 64-bit write of PAR (R173). -/
  | parWrite64 (t t2 : Reg)
  /-- `ISB` (`ISB SY`): the context synchronization event (R176). -/
  | isb
  deriving DecidableEq, Repr

end Sys2Proof
end

