-- ==== Sys2Proof/WellFormed.lean ====
section
/-! DEFINITION. Which terms of `Instr` the spec admits. Register 15 is excluded by the type `Reg`; what is left to check
is R85's `t == t2` for MRRC. -/

namespace Sys2Proof

/-- `t == t2` is refused for MRRC and admitted for MCRR (spec/30_encoding.md R85, spec/44_par_access.md R172, R173);
every other instruction admits every operand (R84). -/
def Instr.wellFormed : Instr → Bool
  | .parRead64 t t2 => t != t2
  | .ats1cpr _ | .ats1cpw _ | .ats1cur _ | .ats1cuw _ | .ats1cprp _ | .ats1cpwp _ => true
  | .ats12nsopr _ | .ats12nsopw _ | .ats12nsour _ | .ats12nsouw _ => true
  | .ats1hr _ | .ats1hw _ => true
  | .parRead32 _ | .parWrite32 _ | .parWrite64 _ _ | .isb => true

end Sys2Proof
end

