-- ==== Sys2Proof/Decode.lean ====
section
/-! DEFINITION. Decoding: the A32 words of spec/30_encoding.md R88, matched by `(word & mask) == match`; every other
word is rejected by name (R83, R84, R85, R91). After it the encoder, written from the field layouts of R81 and R85 and
the field values of R86 and R87, so that the two are independent readings of the spec. -/

namespace Sys2Proof

/-- Why a word is no instruction of the model. -/
inductive DecodeError where
  /-- Fewer than four bytes: every admitted instruction is 32 bits long (R92). -/
  | truncated
  /-- A `cond` other than `1110` (and not the ISB word): refused (R83, decision D4). -/
  | conditionNotAlways
  /-- The word matches no row of R88: outside the spec (R91). -/
  | noRow
  /-- `Rt = 15`: refused (R84, R85, decision D26). -/
  | rtIsFifteen
  /-- `Rt2 = 15`: refused (R85, decision D26). -/
  | rt2IsFifteen
  /-- MRRC with `t == t2`: refused (R85, decision D26). -/
  | rtEqualsRt2
  deriving DecidableEq, Repr

/-- `cond`, bits 31:28 (R81). -/
def condField (w : Word) : BitVec 4 := w.extractLsb' 28 4

/-- `Rt`, bits 15:12 (R81, R84, R85). -/
def rtField (w : Word) : BitVec 4 := w.extractLsb' 12 4

/-- `Rt2`, bits 19:16 of MCRR and MRRC (R85). -/
def rt2Field (w : Word) : BitVec 4 := w.extractLsb' 16 4

/-- The mask of a row with one register operand (R88). -/
def oneRegMask : Word := 0xFFFF0FFF#32

/-- The mask of MCRR and MRRC (R88). -/
def twoRegMask : Word := 0xFFF00FFF#32

/-- The ISB word (R88, R176). -/
def isbWord : Word := 0xF57FF06F#32

/-- The rows of R88 with mask `0xFFFF0FFF`: the word for `t = 0` and the instruction. -/
def oneRegRows : List (Word × (Reg → Instr)) :=
  [(0xEE070F18#32, .ats1cpr), (0xEE070F38#32, .ats1cpw), (0xEE070F58#32, .ats1cur), (0xEE070F78#32, .ats1cuw),
   (0xEE070F19#32, .ats1cprp), (0xEE070F39#32, .ats1cpwp)] ++
  [(0xEE070F98#32, .ats12nsopr), (0xEE070FB8#32, .ats12nsopw), (0xEE070FD8#32, .ats12nsour), (0xEE070FF8#32, .ats12nsouw)] ++
  [(0xEE870F18#32, .ats1hr), (0xEE870F38#32, .ats1hw)] ++
  [(0xEE170F14#32, .parRead32), (0xEE070F14#32, .parWrite32)]

/-- The rows of R88 with mask `0xFFF00FFF`: the word for `t = t2 = 0` and the instruction. -/
def twoRegRows : List (Word × (Reg → Reg → Instr)) :=
  [(0xEC500F07#32, .parRead64), (0xEC400F07#32, .parWrite64)]

/-- The general register a 4-bit field names, none for 15 (R84). -/
def regOfField (f : BitVec 4) : Option Reg :=
  if h : f.toNat < 15 then some ⟨f.toNat, h⟩ else none

/-- The operand of a one-register row (R84). -/
def decodeOneReg (w : Word) (mk : Reg → Instr) : Except DecodeError Instr :=
  match regOfField (rtField w) with
  | none => .error .rtIsFifteen
  | some t => .ok (mk t)

/-- The operands of MCRR and MRRC (R85). -/
def decodeTwoReg (w : Word) (mk : Reg → Reg → Instr) : Except DecodeError Instr :=
  match regOfField (rtField w), regOfField (rt2Field w) with
  | none, _ => .error .rtIsFifteen
  | some _, none => .error .rt2IsFifteen
  | some t, some t2 => if (mk t t2).wellFormed then .ok (mk t t2) else .error .rtEqualsRt2

/-- The decoder of R88 on a 32-bit word, total, rejecting by name (assumption 12). -/
def decode (w : Word) : Except DecodeError Instr :=
  match oneRegRows.lookup (w &&& oneRegMask) with
  | some mk => decodeOneReg w mk
  | none =>
    match twoRegRows.lookup (w &&& twoRegMask) with
    | some mk => decodeTwoReg w mk
    | none =>
      if w = isbWord then .ok .isb
      else if condField w = 0b1110#4 then .error .noRow
      else .error .conditionNotAlways

/-- An instruction word from its four bytes, least significant byte at the lowest address (R63, decision D17). -/
def wordOfBytes (b0 b1 b2 b3 : Byte) : Word := b3 ++ b2 ++ b1 ++ b0

/-- Byte `k` of a word, as R63 lays it out: byte 0 at the lowest address. -/
def byteOfWord (w : Word) (k : Nat) : Byte := w.extractLsb' (8 * k) 8

/-- The decoder on bytes in memory order: the instruction and the bytes after it (R92). -/
def decodeBytes : List Byte → Except DecodeError (Instr × List Byte)
  | b0 :: b1 :: b2 :: b3 :: rest =>
    match decode (wordOfBytes b0 b1 b2 b3) with
    | .ok i => .ok (i, rest)
    | .error e => .error e
  | _ => .error .truncated

/-- The word whose low `nbits` bits are `w`'s and whose other bits are 0. -/
def tableWord (nbits w : Nat) : Word := BitVec.ofNat 32 (w % 2 ^ nbits)

/-- The instruction the decoder reads from an opcode-table word, laid out as bytes. -/
def decodeTableWord (nbits w : Nat) : Option Instr :=
  let v := tableWord nbits w
  match decodeBytes [byteOfWord v 0, byteOfWord v 1, byteOfWord v 2, byteOfWord v 3] with
  | .ok (i, _) => some i
  | .error _ => none

/-! ### The encoder -/

/-- A register number as a 4-bit field. -/
def fieldOfReg (t : Reg) : BitVec 4 := BitVec.ofNat 4 t.val

/-- MCR (`l = 0`) and MRC (`l = 1`) with `cond = 1110` and `coproc = 1111` (R81). -/
def encodeMcrMrc (opc1 : BitVec 3) (l : BitVec 1) (crn : BitVec 4) (t : Reg) (opc2 : BitVec 3) (crm : BitVec 4) : Word :=
  0b1110#4 ++ 0b1110#4 ++ opc1 ++ l ++ crn ++ fieldOfReg t ++ 0b1111#4 ++ opc2 ++ 1#1 ++ crm

/-- MCRR (`l = 0`) and MRRC (`l = 1`) with `cond = 1110` and `coproc = 1111` (R85). -/
def encodeMcrrMrrc (l : BitVec 1) (t2 t : Reg) (opc1 crm : BitVec 4) : Word :=
  0b1110#4 ++ 0b1100010#7 ++ l ++ fieldOfReg t2 ++ fieldOfReg t ++ 0b1111#4 ++ opc1 ++ crm

/-- The word of an instruction: the fields of Table G5-35 (R86), of the PAR accesses (R87) and the ISB word (R88). -/
def encode : Instr → Word
  | .ats1cpr t => encodeMcrMrc 0 0 7 t 0 8
  | .ats1cpw t => encodeMcrMrc 0 0 7 t 1 8
  | .ats1cur t => encodeMcrMrc 0 0 7 t 2 8
  | .ats1cuw t => encodeMcrMrc 0 0 7 t 3 8
  | .ats1cprp t => encodeMcrMrc 0 0 7 t 0 9
  | .ats1cpwp t => encodeMcrMrc 0 0 7 t 1 9
  | .ats12nsopr t => encodeMcrMrc 0 0 7 t 4 8
  | .ats12nsopw t => encodeMcrMrc 0 0 7 t 5 8
  | .ats12nsour t => encodeMcrMrc 0 0 7 t 6 8
  | .ats12nsouw t => encodeMcrMrc 0 0 7 t 7 8
  | .ats1hr t => encodeMcrMrc 4 0 7 t 0 8
  | .ats1hw t => encodeMcrMrc 4 0 7 t 1 8
  | .parRead32 t => encodeMcrMrc 0 1 7 t 0 4
  | .parWrite32 t => encodeMcrMrc 0 0 7 t 0 4
  | .parRead64 t t2 => encodeMcrrMrrc 1 t2 t 0 7
  | .parWrite64 t t2 => encodeMcrrMrrc 0 t2 t 0 7
  | .isb => isbWord

end Sys2Proof
end

