-- ==== Sys2Proof/Machine/State.lean ====
section
/-! DEFINITION. The state of the PE, every component of spec/10_state.md R44 and the model's own bookkeeping, the reasons
a step can stop, and the state right after reset. -/

namespace Sys2Proof.Machine

/-- The nine PE modes (R26, R235). -/
inductive Mode where
  | user
  | fiq
  | irq
  | supervisor
  | abort
  | undefined
  | system
  | hyp
  | monitor
  deriving DecidableEq, Repr

/-- The Security state (R27). -/
inductive SecState where
  | secure
  | nonSecure
  deriving DecidableEq, Repr

/-- The two banks a register banked by Security state has, `S` and `NS` (R12, R29). -/
inductive Bank where
  | S
  | NS
  deriving DecidableEq, Repr

/-- A register with a Secure and a Non-secure instance (R29, R31, R36, R236). -/
structure Banked (α : Type) where
  secure : α
  nonSecure : α
  deriving DecidableEq, Repr

/-- HSR as the facts the source states of it and all its other fields (R33, decision D25). The width of `rest` is the
model's container (assumption 6). -/
structure Hsr where
  /-- "the fault occurred on a translation table walk". -/
  walk : Bool
  /-- "the operation that faulted was a cache maintenance instruction". -/
  cm : Bool
  rest : BitVec 32
  deriving DecidableEq, Repr

/-- The abstract fault status record (R36, decision D25). -/
inductive Dfsr where
  | syncExternalAbortOnWalk
  | asyncExternalAbort
  /-- Any earlier content. -/
  | other
  deriving DecidableEq, Repr

/-- The exceptions in scope (spec/60_exceptions.md R220). -/
inductive ExceptionKind where
  | undefinedInstruction
  /-- The trap of an ATS12NSO** instruction, with the operation it was (R102, R222). -/
  | trapToEL3 (op : ATOp)
  | dataAbort (kind : AbortKind)
  | hypTrap
  deriving DecidableEq, Repr

/-- Where an exception is taken to (R220). -/
inductive ExceptionTarget where
  /-- For an Undefined Instruction exception R220 says "not in source". -/
  | notInSource
  | el3
  | hypMode
  | routed (route : AbortRoute)
  deriving DecidableEq, Repr

/-- The record of an exception outcome (R230). Its `state` is the state that holds this record. -/
structure ExceptionRecord where
  kind : ExceptionKind
  target : ExceptionTarget
  /-- "pc of the instruction that raised it". -/
  atPc : Word
  /-- The model's own field. R206: whether `pc` "has advanced is unspecified in the outcome" of an asynchronous External
  abort, so there it is a free value; every other exception leaves it false (R23). `pc` itself is changed by no exception
  (R23, R230; DESIGN CHOICE, assumption 10, safe). -/
  pcAdvanced : Bool
  deriving DecidableEq, Repr

/-- The bytes of the program text, in one canonical form: see `Memory.wf`. An address that is not listed holds no
value (assumption 9). -/
abbrev Memory := List Host.Cell

/-- The machine. The components of R44 in its order, then memory, then the model's own fields. A component that an
implementation lacks is held and reached by no rule (assumption 13). -/
structure State where
  /-- The configuration (R8); never changed (R7). -/
  cfg : Cfg
  /-- The general registers `x[0..14]` (R21). -/
  x : Vector Word 15
  /-- The address of the instruction being executed (R23). -/
  pc : Word
  /-- PSTATE.PAN (R24). -/
  pan : BitVec 1
  /-- The current mode (R26). -/
  mode : Mode
  /-- The current Security state (R27). -/
  sec : SecState
  /-- PAR, two instances (R29). -/
  par : Banked DWord
  /-- ParDirty, per instance of PAR (R42). -/
  parDirty : Banked Bool
  /-- SCR.NS (R46). -/
  scrNS : BitVec 1
  /-- TTBCR.EAE, two instances (R31). -/
  ttbcrEAE : Banked (BitVec 1)
  /-- HCR.VM (R32). -/
  hcrVM : BitVec 1
  /-- HSR (R33). -/
  hsr : Hsr
  /-- HPFAR, the IPA itself (R34). -/
  hpfar : OutAddr
  /-- HDFAR (R35). -/
  hdfar : Word
  /-- DFSR, two instances (R36). -/
  dfsr : Banked Dfsr
  /-- DFAR, two instances (R36). -/
  dfar : Banked Word
  /-- The program text, a fixed map from addresses (R43, R63, R73, decision D19). -/
  mem : Memory
  /-- The exception that has ended the run, if one has (R230; assumption 7). -/
  ended : Option ExceptionRecord
  /-- The answers the translation oracle gives to the coming requests, first one first (R43, R106; assumption 3). -/
  answers : List ATAnswer
  /-- How many draws of free values have been made (R12; assumption 2). -/
  draws : Nat
  deriving DecidableEq, Repr

/-- Why the machine stops. -/
inductive Fault where
  /-- Raised by the step after an instruction that raised an exception: the run has ended with this record (R230: "No
  further instruction is executed"). Safe: the hardware goes on in a handler the spec does not describe. -/
  | exceptionOutcome (r : ExceptionRecord)
  /-- Raised by the fetch when a byte of the instruction at this pc holds no value: the spec gives no program there
  (assumption 9). Safe. -/
  | fetchUnlisted (pc : Word)
  deriving DecidableEq, Repr

/-- Why the model gives a step no meaning: `refuse(reason)` of R12. Each is safe: nothing is proved through it. -/
inductive Refusal where
  /-- The instruction has no meaning in this model yet: answered by no arm of `exec` in this package. -/
  | notModelled (mnemonic : String)
  /-- Raised by the fetch: the word is no instruction of the model (R83, R84, R85, R91). -/
  | undecodable (e : DecodeError)
  /-- Raised by the fetch: `pc` is not a multiple of 4 (R64, decision D3). -/
  | pcMisaligned
  /-- Raised by the fetch: "a configuration or state outside them is refused" (R9, R27, R46, R207). -/
  | outsideConfiguration
  /-- Raised by an instruction that would complete where `pc + 4` wraps (R23, decision D3). -/
  | pcWraps
  /-- Raised by ATS1HR and ATS1HW in a Secure PL1 mode other than Monitor: CONSTRAINED UNPREDICTABLE with no behaviour
  listed (R103 case (12), decision D11). -/
  | ats1hInSecurePL1NotMonitor
  /-- Raised by an address translation instruction whose oracle answer breaks R109: "An answer that breaks (a) to (c) is
  refused". -/
  | answerNotWellFormed
  /-- Raised by PAR_READ64 with `t == t2` (R22, R85, decision D26); no word decodes to it. -/
  | mrrcSameRegister
  deriving DecidableEq, Repr

/-- The configuration of the reset state: the widest implementation the source describes, with the visibility rule "a
reader should take" (DESIGN CHOICE, assumption 8, unsafe). -/
def resetCfg : Cfg where
  haveEL2 := true
  haveEL3 := true
  el3IsAArch32 := true
  havePAN2 := true
  packPAR := .generalKnowledge
  parSync := .needsContextSync
  syncRoute := .toSecure
  asyncRoute := .toSecure

/-- The state after reset. The spec gives one reset value, `ParDirty` false (R45); it says that a run starts from any
launch state (R250), and this is one. Every other value is a DESIGN CHOICE (assumption 8, unsafe): zero for each register,
Secure Monitor mode, no exception taken, nothing listed in memory. The first oracle answer is assumption 3's. -/
def State.reset : State where
  cfg := resetCfg
  x := Vector.replicate 15 0
  pc := 0
  pan := 0
  mode := .monitor
  sec := .secure
  par := ⟨0, 0⟩
  parDirty := ⟨false, false⟩
  scrNS := 0
  ttbcrEAE := ⟨0, 0⟩
  hcrVM := 0
  hsr := ⟨false, false, 0⟩
  hpfar := 0
  hdfar := 0
  dfsr := ⟨.other, .other⟩
  dfar := ⟨0, 0⟩
  mem := []
  ended := none
  answers := [.ok 0 ⟨⟨0, 0, 0, 0, 0, 0, 0⟩, ⟨0, 0, 0, 0⟩, 0⟩]
  draws := 0

end Sys2Proof.Machine
end

