-- ==== Sys2Proof/Machine/Flags.lean ====
section
/-! DEFINITION. What the instructions compute from the status of the PE. No instruction reads or writes a condition flag
(spec/10_state.md R25); the status they test is the mode, the Security state and the configuration (R28, R29, R46). -/

namespace Sys2Proof.Machine

/-- `AtEL0` (R28). -/
abbrev AtEL0 (s : State) : Prop := s.mode = .user

/-- `InHyp` (R28). -/
abbrev InHyp (s : State) : Prop := s.mode = .hyp

/-- `InMonitor` (R28). -/
abbrev InMonitor (s : State) : Prop := s.mode = .monitor

/-- `AtPL1OrHigher` (R28). -/
abbrev AtPL1OrHigher (s : State) : Prop := ¬ AtEL0 s

/-- `SecurePL1`, which includes Monitor mode (R28). -/
abbrev SecurePL1 (s : State) : Prop := s.sec = .secure ∧ ¬ AtEL0 s

/-- `SecurePL1NotMon` (R28). -/
abbrev SecurePL1NotMon (s : State) : Prop := SecurePL1 s ∧ ¬ InMonitor s

/-- `NonSecurePL1`, the Non-secure PL1 modes (R28). -/
abbrev NonSecurePL1 (s : State) : Prop := s.sec = .nonSecure ∧ ¬ AtEL0 s ∧ ¬ InHyp s

/-- Whether System registers have two instances, and Monitor mode and SCR.NS exist: EL3 is implemented and uses AArch32
(R9(b), R29, R46). -/
abbrev EL3AArch32 (c : Cfg) : Prop := c.haveEL3 = true ∧ c.el3IsAArch32 = true

/-- `ParIdx(b)`: the instance a bank's name reaches (R29). -/
def parIdx (c : Cfg) (b : Bank) : Bank := if EL3AArch32 c then b else .NS

/-- `CurBank` (spec/45_par_format.md R181). -/
def curBank (s : State) : Bank := if s.sec = .secure then .S else .NS

/-- `DirectBank`: the bank a direct access names (spec/44_par_access.md R174). -/
def directBank (s : State) : Bank :=
  if InMonitor s then (if s.scrNS = 1 then .NS else .S) else curBank s

/-- Whether the target of an abort route exists (spec/46_at_faults.md R207). -/
def routeExists (c : Cfg) (sec : SecState) : AbortRoute → Bool
  | .toSecure => c.haveEL3 || sec == .secure
  | .toNonSecure => sec == .nonSecure
  | .toHyp => c.haveEL2
  | .toEL3AArch64 => c.haveEL3 && !c.el3IsAArch32

/-- The configurations and states the model speaks of: R9(b) to (e), R27, the invariant of R46 (where SCR.NS exists) and
the constraint of R207 on the abort routes (assumption 11). -/
abbrev Admitted (s : State) : Prop :=
  (InMonitor s → EL3AArch32 s.cfg ∧ s.sec = .secure) ∧
  (InHyp s → s.cfg.haveEL2 = true ∧ s.sec = .nonSecure) ∧
  (s.cfg.haveEL3 = false → s.cfg.haveEL2 = true → s.sec = .nonSecure) ∧
  (EL3AArch32 s.cfg → ¬ InMonitor s → (s.sec = .nonSecure ↔ s.scrNS = 1)) ∧
  routeExists s.cfg s.sec s.cfg.syncRoute = true ∧
  routeExists s.cfg s.sec s.cfg.asyncRoute = true

end Sys2Proof.Machine
end

