-- ==== Sys2Proof/Machine/Ops.lean ====
section
/-! DEFINITION. The named operations over memory, the banked registers, the free values and the program counter, fetching
an instruction, and taking an exception. -/

namespace Sys2Proof.Machine

/-! ### Memory -/

/-- The canonical form: addresses strictly rising and inside the address space. An unlisted address holds no value, so no
entry can equal what an unlisted address reads as (assumption 9). -/
abbrev Memory.wf (m : Memory) : Prop :=
  m.Pairwise (fun c d => c.1 < d.1) ∧ ∀ c ∈ m, c.1 < addressSpace

/-- The byte at an address, none where nothing is listed. -/
def Memory.read : Memory → Nat → Option Byte
  | [], _ => none
  | (k, v) :: m, a => if k = a then some v else Memory.read m a

/-- Write one byte, keeping the canonical form. -/
def Memory.write : Memory → Nat → Byte → Memory
  | [], a, b => [(a, b)]
  | (k, v) :: m, a, b =>
    if a < k then (a, b) :: (k, v) :: m
    else if a = k then (a, b) :: m
    else (k, v) :: Memory.write m a b

/-- Write a byte at the address `k` bytes above `a`, modulo 2^32. -/
def Memory.writeAt (m : Memory) (a : Word) (k : Nat) (b : Byte) : Memory :=
  m.write (a + BitVec.ofNat 32 k).toNat b

/-- Place a word, least significant byte at the lowest address (spec/20_memory.md R63). No instruction does this: it
stands for loading the program from outside the machine (assumption 9). -/
def Memory.placeWord (m : Memory) (a w : Word) : Memory :=
  (((m.writeAt a 0 (byteOfWord w 0)).writeAt a 1 (byteOfWord w 1)).writeAt a 2 (byteOfWord w 2)).writeAt a 3
    (byteOfWord w 3)

/-- The word at `a`, least significant byte at the lowest address; none if one of its bytes holds no value (R63). -/
def Memory.word (m : Memory) (a : Word) : Option Word :=
  match m.read a.toNat, m.read (a + 1).toNat, m.read (a + 2).toNat, m.read (a + 3).toNat with
  | some b0, some b1, some b2, some b3 => some (wordOfBytes b0 b1 b2 b3)
  | _, _, _, _ => none

/-! ### Banked registers -/

/-- The instance a bank selects (R12: `SysReg[b]`). -/
def Banked.get {α : Type} (r : Banked α) : Bank → α
  | .S => r.secure
  | .NS => r.nonSecure

/-- Write the instance a bank selects; the other is unchanged. -/
def Banked.set {α : Type} (r : Banked α) (b : Bank) (v : α) : Banked α :=
  match b with
  | .S => { r with secure := v }
  | .NS => { r with nonSecure := v }

/-- The bank that is not `b`. -/
def Bank.other : Bank → Bank
  | .S => .NS
  | .NS => .S

/-! ### Free values -/

/-- The next draw of `UNKNOWN(n)` (R12). -/
def State.unknown (s : State) (n : Nat) : BitVec n := Config.unknown n s.draws

/-- One draw has been made. -/
def State.drew (s : State) : State := { s with draws := s.draws + 1 }

/-! ### PAR -/

/-- `MarkDirty(tgt)` (spec/46_at_faults.md R212). -/
def State.markDirty (s : State) (i : Bank) : State :=
  if s.cfg.parSync = .needsContextSync then { s with parDirty := s.parDirty.set i true } else s

/-- Write all 64 bits of an instance of PAR. -/
def State.writePar (s : State) (i : Bank) (v : DWord) : State := { s with par := s.par.set i v }

/-- `PAR[i] <- UNKNOWN(64)`: one draw; the other instance is unchanged (R211). -/
def State.unknownPar (s : State) (i : Bank) : State := (s.writePar i (s.unknown 64)).drew

/-- `ReadPAR(i)` (spec/44_par_access.md R175). -/
def State.readPar (s : State) (i : Bank) : DWord := if s.parDirty.get i then s.unknown 64 else s.par.get i

/-- The state after `ReadPAR(i)`: a draw has been made if one was needed. Nothing else changes (R170). -/
def State.afterReadPar (s : State) (i : Bank) : State := if s.parDirty.get i then s.drew else s

/-- A direct write of PAR: `UNKNOWN(64)` while a result is not yet visible, the value otherwise (R171, R173). -/
def State.directWritePar (s : State) (i : Bank) (v : DWord) : State :=
  if s.parDirty.get i then s.unknownPar i else s.writePar i v

/-- The context synchronization event: no result is pending any more (R176). -/
def State.synchronize (s : State) : State := { s with parDirty := ⟨false, false⟩ }

/-! ### Completing an instruction -/

/-- `pc <- pc + 4`; a wrap is refused (spec/10_state.md R23, decision D3; assumption 14). -/
def State.complete (s : State) : Host.Outcome State Fault Refusal :=
  if s.pc.toNat + 4 < addressSpace then .next { s with pc := s.pc + 4 } else .refused .pcWraps

/-! ### Taking an exception -/

/-- TAKING AN EXCEPTION, the one operation every raising rule ends with (spec/60_exceptions.md R230): the record of the
outcome is held in the state that the raising rule has written, and nothing else changes: `pc` keeps the address of the
instruction (R23, R230), and the spec describes no change of mode, Security state, banked or saved-status register, no
vector and no return (R230, R231). Every later step answers with the record (assumption 7). -/
def takeException (kind : ExceptionKind) (target : ExceptionTarget) (pcAdvanced : Bool) (s : State) :
    Host.Outcome State Fault Refusal :=
  .next { s with ended := some ⟨kind, target, s.pc, pcAdvanced⟩ }

/-- `UNDEFINED` (R12): the Undefined Instruction exception, with no state written (R221). -/
def raiseUndefined (s : State) : Host.Outcome State Fault Refusal :=
  takeException .undefinedInstruction .notInSource false s

/-- `raise TrapToEL3(name)`, with no state written (R222). -/
def raiseTrapToEL3 (op : ATOp) (s : State) : Host.Outcome State Fault Refusal :=
  takeException (.trapToEL3 op) .el3 false s

/-! ### Fetching -/

/-- Fetch and decode the instruction at `pc`: nothing is executed after an exception (R230), a state outside R9 and a
misaligned `pc` are refused (R9, R64), and a word that is no instruction of the model is refused (R91). -/
def fetch (s : State) : Host.Outcome Instr Fault Refusal :=
  match s.ended with
  | some r => .fault (.exceptionOutcome r)
  | none =>
    if ¬ Admitted s then .refused .outsideConfiguration
    else if s.pc.toNat % 4 ≠ 0 then .refused .pcMisaligned
    else
      match s.mem.word s.pc with
      | none => .fault (.fetchUnlisted s.pc)
      | some w =>
        match decode w with
        | .error e => .refused (.undecodable e)
        | .ok i => .next i

end Sys2Proof.Machine
end

