-- ==== Sys2Proof/Machine/Operands.lean ====
section
/-! DEFINITION. The operand forms: a general register (spec/30_encoding.md R84) and a pair of them (R85). There is no
immediate (R89), and no register is hard-wired (spec/10_state.md R21). -/

namespace Sys2Proof.Machine

/-- `x[t]` (R12). -/
def State.readX (s : State) (t : Reg) : Word := s.x[t.val]

/-- `x[t] <- v` (R12). -/
def State.writeX (s : State) (t : Reg) (v : Word) : State := { s with x := s.x.set t.val v }

/-- The pair of MCRR: `Rt` holds bits [31:0] and `Rt2` bits [63:32] (R85). -/
def State.readPair (s : State) (t t2 : Reg) : DWord := s.readX t2 ++ s.readX t

/-- The pair of MRRC: `x[t] <- v[31:0]`, then `x[t2] <- v[63:32]` (R85, spec/44_par_access.md R172). -/
def State.writePair (s : State) (t t2 : Reg) (v : DWord) : State := (s.writeX t v.low).writeX t2 v.high

end Sys2Proof.Machine
end

