-- ==== Sys2Proof/Machine/ParFormat.lean ====
section
/-! DEFINITION. The format of a result, the instance of PAR that receives it, and its packing (spec/45_par_format.md). -/

namespace Sys2Proof.Machine

/-- `FormatATS1C` (R181). -/
def formatAts1c (s : State) : ParFmt :=
  if InHyp s then .f64 else if s.ttbcrEAE.get (parIdx s.cfg (curBank s)) = 1 then .f64 else .f32

/-- `FormatATS12NSO` (R182): the Non-secure TTBCR.EAE, or HCR.VM where there is an EL2. -/
def formatAts12nso (s : State) : ParFmt :=
  if s.ttbcrEAE.get (parIdx s.cfg .NS) = 1 ∨ (s.cfg.haveEL2 = true ∧ s.hcrVM = 1) then .f64 else .f32

/-- `Format(op)` (R180, R183). -/
def format (op : ATOp) (s : State) : ParFmt :=
  match op.family with
  | .ats1c => formatAts1c s
  | .ats12nso => formatAts12nso s
  | .ats1h => .f64

/-- `Target(op)`, a bank's name (R184). -/
def target (op : ATOp) (s : State) : Bank :=
  match op.family with
  | .ats1c => if InHyp s then .NS else curBank s
  | .ats12nso => if InHyp s then .NS else .S
  | .ats1h => if InMonitor s then .S else .NS

/-- The instance that receives the result: `ParIdx(Target(op))` (R102). -/
def resultBank (op : ATOp) (s : State) : Bank := parIdx s.cfg (target op s)

/-- A Bool as one bit. -/
def bit (b : Bool) : BitVec 1 := if b then 1 else 0

/-- A field of a register of `n` bits: `v` placed with its least significant bit at bit `lo` (R11). -/
def field (n lo : Nat) {m : Nat} (v : BitVec m) : BitVec n := v.setWidth n <<< lo

/-- The 32-bit layout (R187, from general knowledge); the bits it does not name are 0. -/
def gkPack32 : ParResult → BitVec 32
  | .ok oa a =>
    field 32 12 (oa.extractLsb' 12 20) ||| field 32 10 a.short.nos ||| field 32 9 a.short.ns |||
      field 32 8 a.short.impdef ||| field 32 7 a.short.sh ||| field 32 4 a.short.inner ||| field 32 2 a.short.outer |||
      field 32 1 a.short.ss
  | .fault _ _ code => field 32 1 code ||| field 32 0 1#1

/-- The 64-bit layout (R188, from general knowledge); the bits it does not name are 0. -/
def gkPack64 : ParResult → BitVec 64
  | .ok oa a =>
    field 64 56 a.long.attr ||| field 64 12 (oa.extractLsb' 12 28) ||| field 64 11 1#1 ||| field 64 10 a.long.impdef |||
      field 64 9 a.long.ns ||| field 64 7 a.long.sh
  | .fault st w code =>
    field 64 11 1#1 ||| field 64 9 (bit (st = .two)) ||| field 64 8 (bit w) ||| field 64 1 code ||| field 64 0 1#1

/-- The general-knowledge instantiation of `Cfg.PackPAR` (R187, R188). -/
def gkPacking : Packing := ⟨gkPack32, gkPack64⟩

/-- Bit `i` of a placed field. -/
theorem field_getLsbD (n lo m i : Nat) (v : BitVec m) :
    (field n lo v).getLsbD i = (decide (i < n) && !decide (i < lo) && v.getLsbD (i - lo)) := by
  simp only [field, BitVec.getLsbD_shiftLeft, BitVec.getLsbD_setWidth]
  by_cases h : i < n
  · simp [h, show i - lo < n by omega]
  · simp [h]

/-- Bit 0 of each layout is the status bit `F`: 0 for a success, 1 for a fault (R187, R188). -/
theorem gkPack32_bit0 (r : ParResult) :
    (gkPack32 r).getLsbD 0 = match r with | .ok _ _ => false | .fault _ _ _ => true := by
  cases r <;> simp only [gkPack32, BitVec.getLsbD_or, field_getLsbD] <;> simp

theorem gkPack64_bit0 (r : ParResult) :
    (gkPack64 r).getLsbD 0 = match r with | .ok _ _ => false | .fault _ _ _ => true := by
  cases r <;> simp only [gkPack64, BitVec.getLsbD_or, field_getLsbD] <;> simp

/-- `PA`, bits 31:12 of the 32-bit layout (R187). -/
theorem gkPack32_page (oa : OutAddr) (a : Attrs) :
    (gkPack32 (.ok oa a)).extractLsb' 12 20 = oa.extractLsb' 12 20 := by
  apply BitVec.eq_of_getLsbD_eq
  intro i hi
  simp only [gkPack32, BitVec.getLsbD_extractLsb', BitVec.getLsbD_or, field_getLsbD]
  simp (disch := omega) only [BitVec.getLsbD_of_ge]
  simp [hi]
  omega

/-- `PA`, bits 39:12 of the 64-bit layout (R188). -/
theorem gkPack64_page (oa : OutAddr) (a : Attrs) :
    (gkPack64 (.ok oa a)).extractLsb' 12 28 = oa.extractLsb' 12 28 := by
  apply BitVec.eq_of_getLsbD_eq
  intro i hi
  simp only [gkPack64, BitVec.getLsbD_extractLsb', BitVec.getLsbD_or, field_getLsbD]
  simp (disch := omega) only [BitVec.getLsbD_of_ge]
  simp [hi, show 12 + i < 56 by omega, show 12 + i < 64 by omega]

/-- Equal packed successes of the 32-bit layout have equal page addresses, supersections included (R187). -/
theorem gkPack32_page_inj {oa oa' : OutAddr} {a a' : Attrs} (h : gkPack32 (.ok oa a) = gkPack32 (.ok oa' a')) :
    oa.extractLsb' 12 20 = oa'.extractLsb' 12 20 := by
  simpa only [gkPack32_page] using congrArg (·.extractLsb' 12 20) h

/-- `oa[31:24]` is the top of the page address `oa[31:12]`. -/
theorem top_of_page {oa oa' : OutAddr} (h : oa.extractLsb' 12 20 = oa'.extractLsb' 12 20) :
    oa.extractLsb' 24 8 = oa'.extractLsb' 24 8 := by
  apply BitVec.eq_of_getLsbD_eq
  intro i hi
  have := congrArg (·.getLsbD (12 + i)) h
  simp only [BitVec.getLsbD_extractLsb', show 12 + i < 20 by omega, decide_true, Bool.true_and] at this
  simpa [BitVec.getLsbD_extractLsb', hi, show 24 + i = 12 + (12 + i) by omega] using this

/-- The general-knowledge layouts satisfy R190. -/
theorem gkPacking_lawful : gkPacking.Lawful where
  fault_ne_ok32 st w c oa a h := by
    have := congrArg (·.getLsbD 0) h
    simp only [gkPacking, gkPack32_bit0] at this
    exact absurd this (by decide)
  fault_ne_ok64 st w c oa a h := by
    have := congrArg (·.getLsbD 0) h
    simp only [gkPacking, gkPack64_bit0] at this
    exact absurd this (by decide)
  top32 oa a oa' a' h := top_of_page (gkPack32_page_inj h)
  page32 oa a oa' a' h _ _ := gkPack32_page_inj h
  page64 oa a oa' a' h := by
    have := congrArg (·.extractLsb' 12 28) h
    simpa only [gkPacking, gkPack64_page] using this

/-- `Cfg.PackPAR` (R186): the general-knowledge layouts, or any other packing that satisfies R190 (assumption 4). -/
def lawfulPacking (c : Cfg) : LawfulPacking :=
  match c.packPAR with
  | .generalKnowledge => ⟨gkPacking, gkPacking_lawful⟩
  | .other => Config.otherPacking ⟨gkPacking, gkPacking_lawful⟩

/-- `PackPAR(F32, r)` (R186). -/
def packPAR32 (c : Cfg) (r : ParResult) : BitVec 32 := (lawfulPacking c).1.pack32 r

/-- `PackPAR(F64, r)` (R186). -/
def packPAR64 (c : Cfg) (r : ParResult) : BitVec 64 := (lawfulPacking c).1.pack64 r

/-- Whether the 32-bit format can hold the result's address: a success with `oa[39:32] != 0` is "wider than the 32-bit
format's address field" (R190, decision D8). -/
def fitsF32 : ParResult → Bool
  | .ok oa _ => oa.extractLsb' 32 8 == 0#8
  | .fault _ _ _ => true

/-- Bits [31:0] of a 32-bit format result: the packed result, or a draw where the format cannot hold the address (R189,
R190, decision D8). -/
def low32 (r : ParResult) (s : State) : BitVec 32 := if fitsF32 r then packPAR32 s.cfg r else s.unknown 32

/-- The state after `low32`: one more draw has been made where one was needed. -/
def afterLow32 (r : ParResult) (s : State) : State := if fitsF32 r then s else s.drew

/-- `WritePAR(tgt, fmt, r)` (R189): all 64 bits in the 64-bit format; in the 32-bit format bits [31:0] hold the result and
bits [63:32] are a draw (decision D7). -/
def writeResult (i : Bank) (fmt : ParFmt) (r : ParResult) (s : State) : State :=
  match fmt with
  | .f64 => s.writePar i (packPAR64 s.cfg r)
  | .f32 => ((afterLow32 r s).writePar i ((afterLow32 r s).unknown 32 ++ low32 r s)).drew

end Sys2Proof.Machine
end

