-- ==== Sys2Proof/Machine/Translation.lean ====
section
/-! DEFINITION. What the twelve address translation instructions share: availability, the request, the oracle, the
completion with its faults and aborts, and the execution template (spec/40_at_common.md, spec/46_at_faults.md). -/

namespace Sys2Proof.Machine

/-! ### Availability -/

/-- The verdicts of `Avail` (R103). -/
inductive Verdict where
  | execute
  | undefined
  | trapToEL3
  | unpredictable
  deriving DecidableEq, Repr

/-- R103 cases (2) and (3). -/
def availAts1c (op : ATOp) (s : State) : Verdict :=
  if op.pan = true ∧ s.cfg.havePAN2 = false then .undefined else .execute

/-- R103 cases (4) to (8). -/
def availAts12nso (s : State) : Verdict :=
  if s.cfg.haveEL2 = false ∧ s.cfg.haveEL3 = false then .undefined
  else if SecurePL1 s ∧ s.cfg.haveEL3 = true ∧ s.cfg.el3IsAArch32 = false then .trapToEL3
  else if InHyp s then .execute
  else if SecurePL1 s then .execute
  else .undefined

/-- R103 cases (9) to (13). -/
def availAts1h (s : State) : Verdict :=
  if s.cfg.haveEL2 = false then .undefined
  else if InHyp s then .execute
  else if InMonitor s then .execute
  else if SecurePL1 s then .unpredictable
  else .undefined

/-- `Avail(op)`, the cases in the order written (R103). -/
def avail (op : ATOp) (s : State) : Verdict :=
  if AtEL0 s then .undefined
  else
    match op.family with
    | .ats1c => availAts1c op s
    | .ats12nso => availAts12nso s
    | .ats1h => availAts1h s

/-! ### The request and its answer -/

/-- `Request(op, va)` (R104). -/
def request (op : ATOp) (va : Word) (s : State) : ATRequest where
  regime :=
    match op.family with
    | .ats1c => if s.sec = .secure then .securePL10 else .nonSecurePL10
    | .ats12nso => .nonSecurePL10
    | .ats1h => .nonSecureEL2
  stages :=
    match op.family with
    | .ats1c => .s1Only
    | .ats12nso => if s.cfg.haveEL2 then .s1AndS2 else .s1Only
    | .ats1h => .s1Only
  va := va
  write := op.write
  unpriv := op.unpriv
  pan := if op.pan then some s.pan else none

/-- The two kinds an output address can be of (R105). -/
inductive OutputKind where
  | ipa
  | pa
  deriving DecidableEq, Repr

/-- The kind of the output address of a successful translation: "a fact about what the 40-bit value means", recorded
nowhere (R105). -/
def outputKind (c : Cfg) (req : ATRequest) : OutputKind :=
  if req.regime = .nonSecurePL10 ∧ req.stages = .s1Only ∧ c.haveEL2 = true then .ipa else .pa

/-- The well-formed answers (R109). -/
def wellFormedAnswer (c : Cfg) (req : ATRequest) : ATAnswer → Bool
  | .fault stage onWalk _ _ =>
    (!onWalk || stage == .two) &&
      (stage == .one || (req.regime == .nonSecurePL10 && c.haveEL2)) &&
      (stage == .one || onWalk || req.stages == .s1AndS2)
  | .ok _ _ | .syncExternalAbort | .asyncExternalAbort => true

/-- `Oracle.AT(req)` (R106): the first answer held in the state, and past the last one a free value (assumption 3). -/
def State.answer (s : State) (req : ATRequest) : ATAnswer :=
  match s.answers with
  | [] => Config.oracleAT s.draws req
  | a :: _ => a

/-- The state after the oracle has been asked once. -/
def State.asked (s : State) : State :=
  match s.answers with
  | [] => s.drew
  | _ :: rest => { s with answers := rest }

/-! ### Faults and aborts -/

/-- `HSR <- { walk, cm, rest = UNKNOWN }` (R33, R205, R206, R210). -/
def State.writeHsr (s : State) (walk cm : Bool) : State :=
  { s with hsr := ⟨walk, cm, s.unknown 32⟩ }.drew

/-- A drawn Bool. -/
def State.unknownBool (s : State) : Bool := s.unknown 1 == 1

/-- A result is reported in PAR and the instruction completes (R201, R203, R212). -/
def reportInPar (i : Bank) (fmt : ParFmt) (r : ParResult) (s : State) : Host.Outcome State Fault Refusal :=
  ((writeResult i fmt r s).markDirty i).complete

/-- `HypTrapOnAT(va, tgt, ipa)` (R210). -/
def hypTrapOnAT (va : Word) (i : Bank) (ipa : OutAddr) (s : State) : Host.Outcome State Fault Refusal :=
  let s1 := ((s.unknownPar i).markDirty i).writeHsr true true
  takeException .hypTrap .hypMode false { s1 with hpfar := ipa, hdfar := va }

/-- The fault status and fault address registers of the target of a synchronous External abort (R205); those of an EL3 using
AArch64 are outside the model (assumption 15). -/
def recordSyncAbort (va : Word) (route : AbortRoute) (s : State) : State :=
  let record (b : Bank) : State :=
    { s with dfsr := s.dfsr.set (parIdx s.cfg b) .syncExternalAbortOnWalk, dfar := s.dfar.set (parIdx s.cfg b) va }
  match route with
  | .toSecure => record .S
  | .toNonSecure => record .NS
  | .toHyp => { s.drew.writeHsr true s.unknownBool with hdfar := va }
  | .toEL3AArch64 => s

/-- `SyncAbortOnAT(va, tgt)` (R205). -/
def syncAbortOnAT (va : Word) (i : Bank) (s : State) : Host.Outcome State Fault Refusal :=
  let route := s.cfg.abortRoute .sync
  takeException (.dataAbort .sync) (.routed route) false
    (recordSyncAbort va route ((s.unknownPar i).markDirty i))

/-- The fault status register of the target of an asynchronous External abort; no fault address register (R206). -/
def recordAsyncAbort (route : AbortRoute) (s : State) : State :=
  match route with
  | .toSecure => { s with dfsr := s.dfsr.set (parIdx s.cfg .S) .asyncExternalAbort }
  | .toNonSecure => { s with dfsr := s.dfsr.set (parIdx s.cfg .NS) .asyncExternalAbort }
  | .toHyp => s.drew.drew.writeHsr s.unknownBool s.drew.unknownBool
  | .toEL3AArch64 => s

/-- `AsyncAbortOnAT(tgt)` (R206), taken at the end of the instruction (decision D20). `pc` keeps the address of the
instruction (R23, R230), also at 0xFFFFFFFC, where therefore nothing wraps; that it "has advanced is unspecified in the
outcome" (R206) is a draw in the record (DESIGN CHOICE, assumption 10, safe). -/
def asyncAbortOnAT (i : Bank) (s : State) : Host.Outcome State Fault Refusal :=
  let route := s.cfg.abortRoute .async
  let s1 := recordAsyncAbort route ((s.unknownPar i).markDirty i)
  takeException (.dataAbort .async) (.routed route) s1.unknownBool s1.drew

/-- `Complete(op, va, fmt, tgt, ans)` (R201). -/
def completeAT (va : Word) (fmt : ParFmt) (i : Bank) (ans : ATAnswer) (s : State) :
    Host.Outcome State Fault Refusal :=
  match ans with
  | .ok oa attrs => reportInPar i fmt (.ok oa attrs) s
  | .fault stage onWalk code ipa =>
    if NonSecurePL1 s ∧ stage = .two then hypTrapOnAT va i ipa s
    else reportInPar i fmt (.fault stage onWalk code) s
  | .syncExternalAbort => syncAbortOnAT va i s
  | .asyncExternalAbort => asyncAbortOnAT i s

/-! ### The template -/

/-- The `Execute` arm of `ATExecute`: ask the oracle, refuse an answer that is not well formed, complete (R102, R109). -/
def translate (op : ATOp) (t : Reg) (s : State) : Host.Outcome State Fault Refusal :=
  let va := s.readX t
  let req := request op va s
  let ans := s.answer req
  if wellFormedAnswer s.cfg req ans then completeAT va (format op s) (resultBank op s) ans s.asked
  else .refused .answerNotWellFormed

/-- `ATExecute(name, t)` (R102). -/
def atExecute (op : ATOp) (t : Reg) (s : State) : Host.Outcome State Fault Refusal :=
  match avail op s with
  | .undefined => raiseUndefined s
  | .trapToEL3 => raiseTrapToEL3 op s
  | .unpredictable => .refused .ats1hInSecurePL1NotMonitor
  | .execute => translate op t s

end Sys2Proof.Machine
end

