-- ==== Sys2Proof/Machine/Ats12nso.lean ====
section
/-! DEFINITION. The meanings of ATS12NSO**, address translation stages 1 and 2, Non-secure state only (spec/42_ats12nso.md): each the template of
spec/40_at_common.md R102 on the operation record that R101 gives its name. -/

namespace Sys2Proof.Machine

/-- The operation record of ATS12NSOPR (R101). -/
def ats12nsoprOp : ATOp := ⟨.ats12nso, false, false, false⟩

/-- ATS12NSOPR: "Non-secure PL1 stage 1 and 2 read translation" (R141). -/
def execAts12nsopr (t : Reg) (s : State) : Host.Outcome State Fault Refusal := atExecute ats12nsoprOp t s

/-- The operation record of ATS12NSOPW (R101). -/
def ats12nsopwOp : ATOp := ⟨.ats12nso, false, true, false⟩

/-- ATS12NSOPW: "Non-secure PL1 stage 1 and 2 write translation" (R142). -/
def execAts12nsopw (t : Reg) (s : State) : Host.Outcome State Fault Refusal := atExecute ats12nsopwOp t s

/-- The operation record of ATS12NSOUR (R101). -/
def ats12nsourOp : ATOp := ⟨.ats12nso, true, false, false⟩

/-- ATS12NSOUR: "Non-secure unprivileged stage 1 and 2 read translation" (R143). -/
def execAts12nsour (t : Reg) (s : State) : Host.Outcome State Fault Refusal := atExecute ats12nsourOp t s

/-- The operation record of ATS12NSOUW (R101). -/
def ats12nsouwOp : ATOp := ⟨.ats12nso, true, true, false⟩

/-- ATS12NSOUW: "Non-secure unprivileged stage 1 and 2 write translation" (R144). -/
def execAts12nsouw (t : Reg) (s : State) : Host.Outcome State Fault Refusal := atExecute ats12nsouwOp t s

end Sys2Proof.Machine
end

