-- ==== Sys2Proof/Machine/Ats1c.lean ====
section
/-! DEFINITION. The meanings of ATS1C**, address translation stage 1, current Security state (spec/41_ats1c.md): each the template of
spec/40_at_common.md R102 on the operation record that R101 gives its name. -/

namespace Sys2Proof.Machine

/-- The operation record of ATS1CPR (R101). -/
def ats1cprOp : ATOp := ⟨.ats1c, false, false, false⟩

/-- ATS1CPR: "PL1 stage 1 read translation, current state" (R121). -/
def execAts1cpr (t : Reg) (s : State) : Host.Outcome State Fault Refusal := atExecute ats1cprOp t s

/-- The operation record of ATS1CPW (R101). -/
def ats1cpwOp : ATOp := ⟨.ats1c, false, true, false⟩

/-- ATS1CPW: "PL1 stage 1 write translation, current state" (R122). -/
def execAts1cpw (t : Reg) (s : State) : Host.Outcome State Fault Refusal := atExecute ats1cpwOp t s

/-- The operation record of ATS1CUR (R101). -/
def ats1curOp : ATOp := ⟨.ats1c, true, false, false⟩

/-- ATS1CUR: "Unprivileged stage 1 read translation, current state" (R123). -/
def execAts1cur (t : Reg) (s : State) : Host.Outcome State Fault Refusal := atExecute ats1curOp t s

/-- The operation record of ATS1CUW (R101). -/
def ats1cuwOp : ATOp := ⟨.ats1c, true, true, false⟩

/-- ATS1CUW: "Unprivileged stage 1 write translation, current state" (R124). -/
def execAts1cuw (t : Reg) (s : State) : Host.Outcome State Fault Refusal := atExecute ats1cuwOp t s

/-- The operation record of ATS1CPRP (R101). -/
def ats1cprpOp : ATOp := ⟨.ats1c, false, false, true⟩

/-- ATS1CPRP: "PL1 stage 1 read translation, current state, PSTATE.PAN" (R125). -/
def execAts1cprp (t : Reg) (s : State) : Host.Outcome State Fault Refusal := atExecute ats1cprpOp t s

/-- The operation record of ATS1CPWP (R101). -/
def ats1cpwpOp : ATOp := ⟨.ats1c, false, true, true⟩

/-- ATS1CPWP: "PL1 stage 1 write translation, current state, PSTATE.PAN" (R126). -/
def execAts1cpwp (t : Reg) (s : State) : Host.Outcome State Fault Refusal := atExecute ats1cpwpOp t s

end Sys2Proof.Machine
end

