-- ==== Sys2Proof/Machine/Ats1h.lean ====
section
/-! DEFINITION. The meanings of ATS1H*, address translation stage 1, Hyp mode (spec/43_ats1h.md): each the template of
spec/40_at_common.md R102 on the operation record that R101 gives its name. -/

namespace Sys2Proof.Machine

/-- The operation record of ATS1HR (R101). -/
def ats1hrOp : ATOp := ⟨.ats1h, false, false, false⟩

/-- ATS1HR: "Hyp mode stage 1 read translation" (R161). -/
def execAts1hr (t : Reg) (s : State) : Host.Outcome State Fault Refusal := atExecute ats1hrOp t s

/-- The operation record of ATS1HW (R101). -/
def ats1hwOp : ATOp := ⟨.ats1h, false, true, false⟩

/-- ATS1HW: "Hyp mode stage 1 write translation" (R162). -/
def execAts1hw (t : Reg) (s : State) : Host.Outcome State Fault Refusal := atExecute ats1hwOp t s

end Sys2Proof.Machine
end

