-- ==== Sys2Proof/Machine/ParAccess.lean ====
section
/-! DEFINITION. The meanings of the direct accesses to PAR and of ISB (spec/44_par_access.md). -/

namespace Sys2Proof.Machine

/-- The instance a direct access reaches: `ParIdx(DirectBank)` (R174). -/
def accessedBank (s : State) : Bank := parIdx s.cfg (directBank s)

/-- PAR_READ32, `MRC p15, 0, Rt, c7, c4, 0`: `x[t] <- ReadPAR(i)[31:0]` (R170). -/
def execParRead32 (t : Reg) (s : State) : Host.Outcome State Fault Refusal :=
  if AtEL0 s then raiseUndefined s
  else
    let i := accessedBank s
    ((s.afterReadPar i).writeX t (s.readPar i).low).complete

/-- PAR_WRITE32, `MCR p15, 0, Rt, c7, c4, 0`: bits [31:0] are replaced, bits [63:32] are unchanged (R171). -/
def execParWrite32 (t : Reg) (s : State) : Host.Outcome State Fault Refusal :=
  if AtEL0 s then raiseUndefined s
  else
    let i := accessedBank s
    (s.directWritePar i ((s.par.get i).high ++ s.readX t)).complete

/-- PAR_READ64, `MRRC p15, 0, Rt, Rt2, c7`: one read for both halves (R172); `t == t2` is refused (R85;
assumption 12). -/
def execParRead64 (t t2 : Reg) (s : State) : Host.Outcome State Fault Refusal :=
  if t = t2 then .refused .mrrcSameRegister
  else if AtEL0 s then raiseUndefined s
  else
    let i := accessedBank s
    ((s.afterReadPar i).writePair t t2 (s.readPar i)).complete

/-- PAR_WRITE64, `MCRR p15, 0, Rt, Rt2, c7`: `PAR[i] <- x[t2] : x[t]` (R173). -/
def execParWrite64 (t t2 : Reg) (s : State) : Host.Outcome State Fault Refusal :=
  if AtEL0 s then raiseUndefined s
  else (s.directWritePar (accessedBank s) (s.readPair t t2)).complete

/-- ISB: a context synchronization event, in every mode (R176). -/
def execIsb (s : State) : Host.Outcome State Fault Refusal := s.synchronize.complete

end Sys2Proof.Machine
end

