-- ==== Sys2Proof/Machine/Dispatch.lean ====
section
/-! DEFINITION. The dispatch: one arm per instruction, each a direct call of its meaning. -/

namespace Sys2Proof.Machine

def exec (i : Instr) (s : State) : Host.Outcome State Fault Refusal :=
  match i with
  | .ats1cpr t => Sys2Proof.Machine.execAts1cpr t s
  | .ats1cpw t => Sys2Proof.Machine.execAts1cpw t s
  | .ats1cur t => Sys2Proof.Machine.execAts1cur t s
  | .ats1cuw t => Sys2Proof.Machine.execAts1cuw t s
  | .ats1cprp t => Sys2Proof.Machine.execAts1cprp t s
  | .ats1cpwp t => Sys2Proof.Machine.execAts1cpwp t s
  | .ats12nsopr t => Sys2Proof.Machine.execAts12nsopr t s
  | .ats12nsopw t => Sys2Proof.Machine.execAts12nsopw t s
  | .ats12nsour t => Sys2Proof.Machine.execAts12nsour t s
  | .ats12nsouw t => Sys2Proof.Machine.execAts12nsouw t s
  | .ats1hr t => Sys2Proof.Machine.execAts1hr t s
  | .ats1hw t => Sys2Proof.Machine.execAts1hw t s
  | .parRead32 t => Sys2Proof.Machine.execParRead32 t s
  | .parWrite32 t => Sys2Proof.Machine.execParWrite32 t s
  | .parRead64 t t2 => Sys2Proof.Machine.execParRead64 t t2 s
  | .parWrite64 t t2 => Sys2Proof.Machine.execParWrite64 t t2 s
  | .isb => Sys2Proof.Machine.execIsb s

end Sys2Proof.Machine
end

