-- ==== Sys2Proof/Machine/Step.lean ====
section
/-! DEFINITION. One step: the execution of one instruction (spec/10_state.md R20). -/

namespace Sys2Proof.Machine

/-- Fetch the instruction at `pc` and execute it. -/
def step (s : State) : Host.Outcome State Fault Refusal :=
  match fetch s with
  | .next i => exec i s
  | .fault f => .fault f
  | .refused r => .refused r

/-- The state with an opcode-table word stored at `pc`, where `step` fetches. It stands for loading a program from outside
the machine (assumption 9). -/
def State.withFetchWord (s : State) (nbits w : Nat) : State :=
  { s with mem := s.mem.placeWord s.pc (tableWord nbits w) }

end Sys2Proof.Machine
end

