-- ==== Sys2Proof/Safety.lean ====
section
/-! DEFINITION. The terms the claims use: what a run that completes is, the invariant of the machine, the frames of the
instructions, and the table of spec/45_par_format.md R191. -/

namespace Sys2Proof.Machine

/-- `k` instructions run from `s` to `t` and none raises an exception, faults or is refused (R230: "An exception outcome is
never a final (successful) state of a run"). -/
def Completes (k : Nat) (s t : State) : Prop := Sys2Proof.core.run k s = .next t ∧ t.ended = none

/-- What holds at reset and is kept by every step: the state is one the spec speaks of (R9, R27, R46, R207), `pc` is a
multiple of 4 (R23), memory is in its canonical form, and a pending PAR result is where R42 and R29 allow one. -/
structure Inv (s : State) : Prop where
  admitted : Admitted s
  aligned : s.pc.toNat % 4 = 0
  memory : s.mem.wf
  /-- R42: "When `Cfg.ParSync == Immediate` it is always false." -/
  immediate : s.cfg.parSync = .immediate → s.parDirty = ⟨false, false⟩
  /-- R29, R42: where PAR has one instance, the other name's flag is never set. -/
  unbanked : ¬ EL3AArch32 s.cfg → s.parDirty.secure = false

/-- The state no rule of the spec writes (R24, R26, R27, R31, R32, R46, R257), the configuration (R7) and every byte of
memory (R62). -/
structure SameControl (s t : State) : Prop where
  cfg : t.cfg = s.cfg
  mode : t.mode = s.mode
  sec : t.sec = s.sec
  pan : t.pan = s.pan
  scrNS : t.scrNS = s.scrNS
  ttbcrEAE : t.ttbcrEAE = s.ttbcrEAE
  hcrVM : t.hcrVM = s.hcrVM
  memory : ∀ a, t.mem.read a = s.mem.read a

/-- The fault status, fault address and syndrome registers are unchanged (R33 to R36). -/
structure SameFaultRegisters (s t : State) : Prop where
  hsr : t.hsr = s.hsr
  hpfar : t.hpfar = s.hpfar
  hdfar : t.hdfar = s.hdfar
  dfsr : t.dfsr = s.dfsr
  dfar : t.dfar = s.dfar

/-- `PAR[i]` may have been written by an address translation instruction: the other instance and its flag are unchanged,
and the flag of this one says whether a result is pending (R211, R212). -/
structure WritesOnePar (s t : State) (i : Bank) : Prop where
  otherPar : t.par.get i.other = s.par.get i.other
  otherDirty : t.parDirty.get i.other = s.parDirty.get i.other
  dirty : t.parDirty.get i = (s.parDirty.get i || decide (s.cfg.parSync = .needsContextSync))

/-- The frame of an address translation instruction that reports its result in `PAR[i]` and completes (R110, R203). -/
structure ReportFrame (s t : State) (i : Bank) : Prop where
  control : SameControl s t
  faultRegisters : SameFaultRegisters s t
  par : WritesOnePar s t i
  x : t.x = s.x
  pc : t.pc = s.pc + 4
  ended : t.ended = s.ended

/-- What `PAR[i]` holds of a result in each format (R189): in the 32-bit format bits [63:32] are a draw, and so are bits
[31:0] where the format cannot hold the address (R190). -/
def HoldsResult (s t : State) (i : Bank) (r : ParResult) : ParFmt → Prop
  | .f64 => t.par.get i = packPAR64 s.cfg r
  | .f32 =>
    (∃ n, (t.par.get i).high = Config.unknown 32 n) ∧
      (fitsF32 r = true → (t.par.get i).low = packPAR32 s.cfg r) ∧
      (fitsF32 r = false → ∃ n, (t.par.get i).low = Config.unknown 32 n)

/-- The frame of a direct access to PAR or an ISB that completes: everything but PAR, its flags and the general registers
is unchanged, and `pc` has advanced (R170 to R173, R176). -/
structure AccessFrame (s t : State) : Prop where
  control : SameControl s t
  faultRegisters : SameFaultRegisters s t
  pc : t.pc = s.pc + 4
  ended : t.ended = s.ended

/-- The address translation instructions, by R101's table: the operation record and the register operand. -/
def atForm : Instr → Option (ATOp × Reg)
  | .ats1cpr t => some (⟨.ats1c, false, false, false⟩, t)
  | .ats1cpw t => some (⟨.ats1c, false, true, false⟩, t)
  | .ats1cur t => some (⟨.ats1c, true, false, false⟩, t)
  | .ats1cuw t => some (⟨.ats1c, true, true, false⟩, t)
  | .ats1cprp t => some (⟨.ats1c, false, false, true⟩, t)
  | .ats1cpwp t => some (⟨.ats1c, false, true, true⟩, t)
  | .ats12nsopr t => some (⟨.ats12nso, false, false, false⟩, t)
  | .ats12nsopw t => some (⟨.ats12nso, false, true, false⟩, t)
  | .ats12nsour t => some (⟨.ats12nso, true, false, false⟩, t)
  | .ats12nsouw t => some (⟨.ats12nso, true, true, false⟩, t)
  | .ats1hr t => some (⟨.ats1h, false, false, false⟩, t)
  | .ats1hw t => some (⟨.ats1h, false, true, false⟩, t)
  | .parRead32 _ | .parWrite32 _ | .parRead64 _ _ | .parWrite64 _ _ | .isb => none

/-- The rows of R191 for ATS1C**, each with the place of execution R120 gives it: where the instruction `op` executes in
`s`, the instance `i` it writes and the format `f`. -/
def Ats1cRow (op : ATOp) (s : State) (i : Bank) (f : ParFmt) : Prop :=
  op.family = .ats1c ∧ (op.pan = true → s.cfg.havePAN2 = true) ∧
  ((SecurePL1 s ∧ i = parIdx s.cfg .S ∧ (f = .f64 ↔ s.ttbcrEAE.get (parIdx s.cfg .S) = 1)) ∨
   (NonSecurePL1 s ∧ i = parIdx s.cfg .NS ∧ (f = .f64 ↔ s.ttbcrEAE.get (parIdx s.cfg .NS) = 1)) ∨
   (InHyp s ∧ i = parIdx s.cfg .NS ∧ f = .f64))

/-- The rows of R191 for ATS12NSO**, with the places of R140 that execute it. -/
def Ats12nsoRow (op : ATOp) (s : State) (i : Bank) (f : ParFmt) : Prop :=
  op.family = .ats12nso ∧
  (f = .f64 ↔ s.ttbcrEAE.get (parIdx s.cfg .NS) = 1 ∨ (s.cfg.haveEL2 = true ∧ s.hcrVM = 1)) ∧
  ((SecurePL1 s ∧ EL3AArch32 s.cfg ∧ i = parIdx s.cfg .S) ∨ (InHyp s ∧ i = parIdx s.cfg .NS))

/-- The rows of R191 for ATS1H*, with the places of R160 that execute it. -/
def Ats1hRow (op : ATOp) (s : State) (i : Bank) (f : ParFmt) : Prop :=
  op.family = .ats1h ∧ f = .f64 ∧ s.cfg.haveEL2 = true ∧
  ((InMonitor s ∧ i = parIdx s.cfg .S) ∨ (InHyp s ∧ i = parIdx s.cfg .NS))

/-- The same state with another value in the Secure instance of PAR. -/
def State.withSecurePar (s : State) (v : DWord) : State := { s with par := { s.par with secure := v } }

/-- An outcome with its next state changed. -/
def mapNext (f : State → State) : Host.Outcome State Fault Refusal → Host.Outcome State Fault Refusal
  | .next s => .next (f s)
  | .fault r => .fault r
  | .refused r => .refused r

end Sys2Proof.Machine
end

