-- ==== Sys2Proof/Certificates/Slice0/Obligations.lean ====
section
/-! DEFINITION. The statements for the provers. Each docstring names the rule of spec/ it formalises, and the log entry
where a clause is the model's own choice; where a clause rests on a decision of the spec (spec/92_eei_decisions.md), it
names the decision. Three decisions run through all of them: the two instances of PAR are told apart through `parIdx` (D6),
the flag of a pending result is `parDirty` (D15), and an exception is an outcome that holds its record (D12; log entry 7). A
statement about a free value holds for every value of it: where a result is a draw, the statement says that it is
`Config.unknown` at some counter, and nothing more. -/

open Sys2Proof Sys2Proof.Machine

/-! ### Encoding -/

/-- The words of spec/95_test_vectors.md section 2, written out from R81, R85 and R86, decode to the instructions they
stand for, and its refused words are refused. -/
def Obligations.WrittenOutWordsDecode : Prop :=
  decode 0xEE070F18#32 = .ok (.ats1cpr 0) ∧ decode 0xEE073F38#32 = .ok (.ats1cpw 3) ∧
  decode 0xEE07EF58#32 = .ok (.ats1cur 14) ∧ decode 0xEE073F19#32 = .ok (.ats1cprp 3) ∧
  decode 0xEE07EFF8#32 = .ok (.ats12nsouw 14) ∧ decode 0xEE873F38#32 = .ok (.ats1hw 3) ∧
  decode 0xEE172F14#32 = .ok (.parRead32 2) ∧ decode 0xEC554F07#32 = .ok (.parRead64 4 5) ∧
  decode 0xEC432F07#32 = .ok (.parWrite64 2 3) ∧ decode 0xF57FF06F#32 = .ok .isb ∧
  decode 0x0E070F18#32 = .error .conditionNotAlways ∧ decode 0xEE07FF18#32 = .error .rtIsFifteen ∧
  decode 0xEE070F59#32 = .error .noRow ∧ decode 0xEC500F07#32 = .error .rtEqualsRt2

/-- Decoding an encoded well-formed instruction gives it back, for every instruction and every operand (R81, R84 to R88).
-/
def Obligations.DecodeInvertsEncode : Prop :=
  ∀ i : Instr, i.wellFormed = true → decode (encode i) = .ok i

/-- A word that decodes is the encoding of the instruction it decodes to, which is well formed: the decoder reads every
bit of the word (R88, R91). -/
def Obligations.DecodedWordIsTheEncoding : Prop :=
  ∀ (w : Word) (i : Instr), decode w = .ok i → encode i = w ∧ i.wellFormed = true

/-- R83, decision D4: only `cond = 1110` is admitted; every other word but ISB's is refused as conditional. -/
def Obligations.OtherConditionsAreRefused : Prop :=
  ∀ w : Word, w.extractLsb' 28 4 ≠ 0b1110#4 → w ≠ 0xF57FF06F#32 → decode w = .error .conditionNotAlways

/-- R91 and the operand corners of R84 and R85: a word that matches no row of R88 is refused, `Rt = 15` is refused in
every row, `Rt2 = 15` in MCRR and MRRC, and `t == t2` in MRRC (decision D26). The clauses name the corner that is reported
first. -/
def Obligations.OperandCornersAreRefused : Prop :=
  let ones : List Word := [0xEE070F18#32, 0xEE070F38#32, 0xEE070F58#32, 0xEE070F78#32, 0xEE070F19#32, 0xEE070F39#32,
    0xEE070F98#32, 0xEE070FB8#32, 0xEE070FD8#32, 0xEE070FF8#32, 0xEE870F18#32, 0xEE870F38#32, 0xEE170F14#32,
    0xEE070F14#32]
  let twos : List Word := [0xEC500F07#32, 0xEC400F07#32]
  ∀ w : Word,
    (w &&& 0xFFFF0FFF#32 ∈ ones → w.extractLsb' 12 4 = 15#4 → decode w = .error .rtIsFifteen) ∧
    (w &&& 0xFFF00FFF#32 ∈ twos → w.extractLsb' 12 4 = 15#4 → decode w = .error .rtIsFifteen) ∧
    (w &&& 0xFFF00FFF#32 ∈ twos → w.extractLsb' 12 4 ≠ 15#4 → w.extractLsb' 16 4 = 15#4 →
      decode w = .error .rt2IsFifteen) ∧
    (w &&& 0xFFF00FFF#32 = 0xEC500F07#32 → w.extractLsb' 12 4 ≠ 15#4 → w.extractLsb' 16 4 = w.extractLsb' 12 4 →
      decode w = .error .rtEqualsRt2) ∧
    (w &&& 0xFFFF0FFF#32 ∉ ones → w &&& 0xFFF00FFF#32 ∉ twos → w ≠ 0xF57FF06F#32 → ∃ e, decode w = .error e)

/-! ### The step -/

/-- A step is the execution of the instruction that the four bytes at `pc` decode to (R20, R63, decision D17): in a state
that no exception has ended, that the spec speaks of, with `pc` a multiple of 4. -/
def Obligations.StepRunsTheDecodedInstruction : Prop :=
  ∀ (s : State) (b0 b1 b2 b3 : Byte) (i : Instr), s.ended = none → Admitted s → s.pc.toNat % 4 = 0 →
    s.mem.read s.pc.toNat = some b0 → s.mem.read (s.pc.toNat + 1) = some b1 → s.mem.read (s.pc.toNat + 2) = some b2 →
    s.mem.read (s.pc.toNat + 3) = some b3 → decodeBytes [b0, b1, b2, b3] = .ok (i, []) → step s = exec i s

/-- When a step runs nothing. R230: after an exception no instruction is executed, and the step answers with the record of
the outcome (log entry 7). R9: a state outside its constraints is refused (log entry 11). R64, decision D3: a misaligned
`pc` is refused. R91: a word without an instruction is refused. Log entry 9: where a byte of the word is not listed, the
fetch faults. -/
def Obligations.StepsThatRunNothing : Prop :=
  ∀ s : State,
    (∀ r, s.ended = some r → step s = .fault (.exceptionOutcome r)) ∧
    (s.ended = none → ¬ Admitted s → step s = .refused .outsideConfiguration) ∧
    (s.ended = none → Admitted s → s.pc.toNat % 4 ≠ 0 → step s = .refused .pcMisaligned) ∧
    (s.ended = none → Admitted s → s.pc.toNat % 4 = 0 → s.mem.word s.pc = none → step s = .fault (.fetchUnlisted s.pc)) ∧
    (∀ w e, s.ended = none → Admitted s → s.pc.toNat % 4 = 0 → s.mem.word s.pc = some w → decode w = .error e →
      step s = .refused (.undecodable e))

/-- The reset state is a launch state (R45, R250): the invariant holds, both flags of R42 are false and no exception has
been taken. Its other values are the model's choice (log entry 8). -/
def Obligations.ResetIsALaunchState : Prop :=
  Inv State.reset ∧ State.reset.parDirty = ⟨false, false⟩ ∧ State.reset.ended = none

/-- Every step keeps the invariant: the constraints of R9, R27 and R46, an aligned `pc`, the canonical form of memory, and
the flags of R42 where they may be set. -/
def Obligations.StepKeepsTheInvariant : Prop :=
  ∀ s s' : State, Inv s → step s = .next s' → Inv s'

/-- Every instruction runs as the first one after reset, once its word stands at `pc`. The reset state is the model's
choice (log entry 8). -/
def Obligations.EveryInstructionRunsFirstAfterReset : Prop :=
  ∀ i : Instr, i.wellFormed = true →
    step (State.reset.withFetchWord 32 (encode i).toNat) = exec i (State.reset.withFetchWord 32 (encode i).toNat)

/-! ### The request -/

/-- R104: the request each name makes. Without EL3 the PL1&0 regime is named after the Security state (R104's last
sentence, decision D5). -/
def Obligations.RequestOfEachName : Prop :=
  ∀ (i : Instr) (op : ATOp) (r : Reg) (va : Word) (s : State), atForm i = some (op, r) →
    (request op va s).va = va ∧ (request op va s).write = op.write ∧ (request op va s).unpriv = op.unpriv ∧
    (op.pan = true → (request op va s).pan = some s.pan) ∧ (op.pan = false → (request op va s).pan = none) ∧
    (op.family = .ats1c → (request op va s).stages = .s1Only ∧
      (s.sec = .secure → (request op va s).regime = .securePL10) ∧
      (s.sec = .nonSecure → (request op va s).regime = .nonSecurePL10)) ∧
    (op.family = .ats12nso → (request op va s).regime = .nonSecurePL10 ∧
      (s.cfg.haveEL2 = true → (request op va s).stages = .s1AndS2) ∧
      (s.cfg.haveEL2 = false → (request op va s).stages = .s1Only)) ∧
    (op.family = .ats1h → (request op va s).regime = .nonSecureEL2 ∧ (request op va s).stages = .s1Only)

/-- R105: the output address is an IPA exactly for an ATS1C** instruction executed in Non-secure state of an
implementation with EL2; in every other case it is a PA. -/
def Obligations.KindOfTheOutputAddress : Prop :=
  ∀ (i : Instr) (op : ATOp) (r : Reg) (s : State), atForm i = some (op, r) →
    (op.family = .ats1c ∧ s.sec = .nonSecure ∧ s.cfg.haveEL2 = true →
      outputKind s.cfg (request op (s.readX r) s) = .ipa) ∧
    (¬ (op.family = .ats1c ∧ s.sec = .nonSecure ∧ s.cfg.haveEL2 = true) →
      outputKind s.cfg (request op (s.readX r) s) = .pa)

/-! ### Results reported in PAR -/

/-- R182 and R183: an ATS12NSO** instruction returns a result in the 64-bit format if the Non-secure TTBCR.EAE is 1, or if
there is an EL2 and HCR.VM is 1, and in the 32-bit format otherwise; an ATS1H* instruction always in the 64-bit format. -/
def Obligations.FormatOfAts12nsoAndAts1h : Prop :=
  ∀ (i : Instr) (op : ATOp) (r : Reg) (s : State), atForm i = some (op, r) →
    (op.family = .ats12nso →
      (s.ttbcrEAE.nonSecure = 1 ∨ (s.cfg.haveEL2 = true ∧ s.hcrVM = 1) → format op s = .f64) ∧
      (s.ttbcrEAE.nonSecure ≠ 1 → ¬ (s.cfg.haveEL2 = true ∧ s.hcrVM = 1) → format op s = .f32)) ∧
    (op.family = .ats1h → format op s = .f64)

/-- R191, which the spec derives from R181 to R184: the format and the instance for every family and place of execution.
That TTBCR.EAE = 1 selects the 64-bit format of ATS1C** is the spec's general knowledge (R181). -/
def Obligations.FormatAndInstanceByPlace : Prop :=
  ∀ (op : ATOp) (s : State) (b : Bank) (f : ParFmt), Admitted s →
    Ats1cRow op s b f ∨ Ats12nsoRow op s b f ∨ Ats1hRow op s b f → format op s = f ∧ resultBank op s = b

/-- ATS1C** completes in every place R120 lets it execute: a success, and an MMU fault that R202 reports in PAR, is in the
instance and the format that R191 gives for the place, with nothing else written (R110, R181, R184, R189, R203). Bits
[63:32] of a 32-bit format result are a draw (decision D7), and so are bits [31:0] of an address too wide for it (decision
D8). -/
def Obligations.Ats1cReportsItsResultInPar : Prop :=
  ∀ (i : Instr) (op : ATOp) (r : Reg) (s : State) (b : Bank) (f : ParFmt), atForm i = some (op, r) → Admitted s →
    Ats1cRow op s b f → s.pc.toNat + 4 < 2 ^ 32 →
    (∀ oa a, s.answer (request op (s.readX r) s) = .ok oa a →
      ∃ t, exec i s = .next t ∧ ReportFrame s t b ∧ HoldsResult s t b (.ok oa a) f) ∧
    (∀ st w c ipa, s.answer (request op (s.readX r) s) = .fault st w c ipa →
      wellFormedAnswer s.cfg (request op (s.readX r) s) (.fault st w c ipa) = true → (NonSecurePL1 s → st = .one) →
      ∃ t, exec i s = .next t ∧ ReportFrame s t b ∧ HoldsResult s t b (.fault st w c) f)

/-- ATS12NSO** completes in Hyp mode and in the Secure PL1 modes of an EL3 that uses AArch32 (R140): a success and an MMU
fault of either stage is reported in PAR, in the instance and the format of R191 (R182, R184, R202); the draws are those
of decisions D7 and D8. -/
def Obligations.Ats12nsoReportsItsResultInPar : Prop :=
  ∀ (i : Instr) (op : ATOp) (r : Reg) (s : State) (b : Bank) (f : ParFmt), atForm i = some (op, r) → Admitted s →
    Ats12nsoRow op s b f → s.pc.toNat + 4 < 2 ^ 32 →
    (∀ oa a, s.answer (request op (s.readX r) s) = .ok oa a →
      ∃ t, exec i s = .next t ∧ ReportFrame s t b ∧ HoldsResult s t b (.ok oa a) f) ∧
    (∀ st w c ipa, s.answer (request op (s.readX r) s) = .fault st w c ipa →
      wellFormedAnswer s.cfg (request op (s.readX r) s) (.fault st w c ipa) = true →
      ∃ t, exec i s = .next t ∧ ReportFrame s t b ∧ HoldsResult s t b (.fault st w c) f)

/-- ATS1H* completes in Hyp mode and in Monitor mode (R160): its result, a success or an MMU fault, is always in the
64-bit format (R183), in the instance of R184. -/
def Obligations.Ats1hReportsItsResultInPar : Prop :=
  ∀ (i : Instr) (op : ATOp) (r : Reg) (s : State) (b : Bank) (f : ParFmt), atForm i = some (op, r) → Admitted s →
    Ats1hRow op s b f → s.pc.toNat + 4 < 2 ^ 32 →
    (∀ oa a, s.answer (request op (s.readX r) s) = .ok oa a →
      ∃ t, exec i s = .next t ∧ ReportFrame s t b ∧ t.par.get b = packPAR64 s.cfg (.ok oa a)) ∧
    (∀ c ipa, s.answer (request op (s.readX r) s) = .fault .one false c ipa →
      ∃ t, exec i s = .next t ∧ ReportFrame s t b ∧ t.par.get b = packPAR64 s.cfg (.fault .one false c))

/-- R212, decision D15: on every path of its completion, a report or an exception, an address translation instruction that
executes marks its target instance as pending where a result needs a context synchronization event, and no flag otherwise.
-/
def Obligations.EveryCompletionMarksItsInstance : Prop :=
  ∀ (i : Instr) (op : ATOp) (r : Reg) (s t : State) (b : Bank) (f : ParFmt), atForm i = some (op, r) → Admitted s →
    Ats1cRow op s b f ∨ Ats12nsoRow op s b f ∨ Ats1hRow op s b f → exec i s = .next t →
    (s.cfg.parSync = .needsContextSync → t.parDirty.get b = true ∧ t.parDirty.get b.other = s.parDirty.get b.other) ∧
    (s.cfg.parSync = .immediate → t.parDirty = s.parDirty)

/-- R145: an ATS12NSO** instruction in any Secure PL1 mode of an EL3 that uses AArch32 executes exactly as in Monitor
mode. -/
def Obligations.DeprecatedUseBehavesAsInMonitorMode : Prop :=
  ∀ (i : Instr) (op : ATOp) (r : Reg) (s : State) (m : Mode), atForm i = some (op, r) → op.family = .ats12nso →
    s.sec = .secure → EL3AArch32 s.cfg → m ≠ .user → m ≠ .hyp →
    exec i { s with mode := m } = mapNext (fun t => { t with mode := m }) (exec i { s with mode := .monitor })

/-! ### Exceptions -/

/-- R210: a stage 2 fault on the stage 1 walk of an ATS1C** instruction executed in a Non-secure PL1 mode takes the Hyp
Trap exception: PAR is UNKNOWN, HSR says that a cache maintenance instruction faulted on a walk, HPFAR holds the IPA and
HDFAR the VA; DFSR, DFAR and everything else is unchanged, and `pc` stays at the instruction (R23). That the entry is a
next state with a record in it is log entry 7. -/
def Obligations.Stage2FaultOnTheWalkTakesTheHypTrap : Prop :=
  ∀ (i : Instr) (op : ATOp) (r : Reg) (s : State) (c : BitVec 6) (ipa : OutAddr), atForm i = some (op, r) → Admitted s →
    op.family = .ats1c → (op.pan = true → s.cfg.havePAN2 = true) → NonSecurePL1 s → s.cfg.haveEL2 = true →
    s.answer (request op (s.readX r) s) = .fault .two true c ipa →
    ∃ t, exec i s = .next t ∧ t.ended = some ⟨.hypTrap, .hypMode, s.pc, false⟩ ∧
      (∃ n, t.par.get .NS = Config.unknown 64 n) ∧ WritesOnePar s t .NS ∧ t.hsr.walk = true ∧ t.hsr.cm = true ∧
      t.hpfar = ipa ∧ t.hdfar = s.readX r ∧ t.dfsr = s.dfsr ∧ t.dfar = s.dfar ∧ SameControl s t ∧ t.x = s.x ∧ t.pc = s.pc

/-- R205: a synchronous External abort on the walk takes a Data Abort exception, from each place of execution and by each
route (decision D13). The instance of PAR that would have received the result is UNKNOWN (decision D14), and the fault
status and fault address registers of the target are updated, no others. -/
def Obligations.SyncExternalAbortTakesADataAbort : Prop :=
  ∀ (i : Instr) (op : ATOp) (r : Reg) (s : State) (b : Bank) (f : ParFmt), atForm i = some (op, r) → Admitted s →
    Ats1cRow op s b f ∨ Ats12nsoRow op s b f ∨ Ats1hRow op s b f →
    s.answer (request op (s.readX r) s) = .syncExternalAbort →
    ∃ t, exec i s = .next t ∧ t.ended = some ⟨.dataAbort .sync, .routed s.cfg.syncRoute, s.pc, false⟩ ∧
      (∃ n, t.par.get b = Config.unknown 64 n) ∧ WritesOnePar s t b ∧ SameControl s t ∧ t.x = s.x ∧ t.pc = s.pc ∧
      t.hpfar = s.hpfar ∧
      (∀ d, (s.cfg.syncRoute = .toSecure ∧ d = parIdx s.cfg .S) ∨ (s.cfg.syncRoute = .toNonSecure ∧ d = parIdx s.cfg .NS) →
        t.dfsr.get d = .syncExternalAbortOnWalk ∧ t.dfar.get d = s.readX r ∧ t.dfsr.get d.other = s.dfsr.get d.other ∧
        t.dfar.get d.other = s.dfar.get d.other ∧ t.hsr = s.hsr ∧ t.hdfar = s.hdfar) ∧
      (s.cfg.syncRoute = .toHyp → t.hsr.walk = true ∧ t.hdfar = s.readX r ∧ t.dfsr = s.dfsr ∧ t.dfar = s.dfar) ∧
      (s.cfg.syncRoute = .toEL3AArch64 → SameFaultRegisters s t)

/-- R206: an asynchronous External abort on the walk takes a Data Abort exception. PAR is UNKNOWN, the fault status
register of the target is updated, and no fault address register is. It is taken at the end of the instruction (decision
D20); `pc` keeps the address of the instruction (R23, R230), and whether it has advanced, which R206 leaves unspecified, is a
free value in the record (log entry 10). -/
def Obligations.AsyncExternalAbortTakesADataAbort : Prop :=
  ∀ (i : Instr) (op : ATOp) (r : Reg) (s : State) (b : Bank) (f : ParFmt), atForm i = some (op, r) → Admitted s →
    Ats1cRow op s b f ∨ Ats12nsoRow op s b f ∨ Ats1hRow op s b f →
    s.answer (request op (s.readX r) s) = .asyncExternalAbort →
    ∃ t, exec i s = .next t ∧
      (∃ n, t.ended = some ⟨.dataAbort .async, .routed s.cfg.asyncRoute, s.pc, Config.unknown 1 n == 1⟩) ∧
      (∃ n, t.par.get b = Config.unknown 64 n) ∧ WritesOnePar s t b ∧ SameControl s t ∧ t.x = s.x ∧
      t.pc = s.pc ∧ t.hpfar = s.hpfar ∧ t.hdfar = s.hdfar ∧ t.dfar = s.dfar ∧
      (∀ d, (s.cfg.asyncRoute = .toSecure ∧ d = parIdx s.cfg .S) ∨ (s.cfg.asyncRoute = .toNonSecure ∧ d = parIdx s.cfg .NS) →
        t.dfsr.get d = .asyncExternalAbort ∧ t.dfsr.get d.other = s.dfsr.get d.other ∧ t.hsr = s.hsr) ∧
      (s.cfg.asyncRoute = .toHyp → t.dfsr = s.dfsr ∧
        ∃ n m k, t.hsr = ⟨Config.unknown 1 n == 1, Config.unknown 1 m == 1, Config.unknown 32 k⟩) ∧
      (s.cfg.asyncRoute = .toEL3AArch64 → SameFaultRegisters s t)

/-- R221: the five cases of the Undefined Instruction exception, each with no state written. User mode and the Non-secure
PL1 modes are decisions D10 and D24. -/
def Obligations.UndefinedInstructionCases : Prop :=
  ∀ (i : Instr) (s : State),
    let undefined := exec i s = .next { s with ended := some ⟨.undefinedInstruction, .notInSource, s.pc, false⟩ }
    (i.wellFormed = true → i ≠ .isb → AtEL0 s → undefined) ∧
    (∀ op r, atForm i = some (op, r) →
      (op.pan = true → s.cfg.havePAN2 = false → undefined) ∧
      (op.family = .ats12nso → s.cfg.haveEL2 = false → s.cfg.haveEL3 = false → undefined) ∧
      (op.family = .ats1h → s.cfg.haveEL2 = false → undefined) ∧
      (op.family = .ats12nso ∨ op.family = .ats1h → Admitted s → NonSecurePL1 s → undefined))

/-- R222: with EL3 using AArch64, an ATS12NSO** instruction at Secure EL1 is trapped to EL3, with no state written. -/
def Obligations.Ats12nsoTrapsToEL3 : Prop :=
  ∀ (i : Instr) (op : ATOp) (r : Reg) (s : State), atForm i = some (op, r) → op.family = .ats12nso → SecurePL1 s →
    s.cfg.haveEL3 = true → s.cfg.el3IsAArch32 = false →
    exec i s = .next { s with ended := some ⟨.trapToEL3 op, .el3, s.pc, false⟩ }

/-- R103 case (12): ATS1H* in a Secure PL1 mode other than Monitor is CONSTRAINED UNPREDICTABLE with no behaviour listed,
and is refused (decision D11). -/
def Obligations.Ats1hIsRefusedInSecurePL1NotMonitor : Prop :=
  ∀ (i : Instr) (op : ATOp) (r : Reg) (s : State), atForm i = some (op, r) → op.family = .ats1h → Admitted s →
    s.cfg.haveEL2 = true → SecurePL1NotMon s → exec i s = .refused .ats1hInSecurePL1NotMonitor

/-- R109: an answer that breaks (a), (b) or (c) is refused, wherever the instruction executes. -/
def Obligations.MalformedAnswersAreRefused : Prop :=
  ∀ (i : Instr) (op : ATOp) (r : Reg) (s : State) (b : Bank) (f : ParFmt) (st : Stage) (w : Bool) (c : BitVec 6)
    (ipa : OutAddr), atForm i = some (op, r) → Admitted s → Ats1cRow op s b f ∨ Ats12nsoRow op s b f ∨ Ats1hRow op s b f →
    s.answer (request op (s.readX r) s) = .fault st w c ipa →
    (w = true ∧ st = .one) ∨
      (st = .two ∧ (s.cfg.haveEL2 = false ∨ op.family = .ats1h ∨ (op.family = .ats1c ∧ s.sec = .secure))) ∨
      (st = .two ∧ w = false ∧ op.family = .ats1c) →
    exec i s = .refused .answerNotWellFormed

/-! ### Direct access to PAR, and ISB -/

/-- R174, decision D24: the instance a direct access reaches. -/
def Obligations.InstanceOfADirectAccess : Prop :=
  ∀ s : State,
    (InMonitor s → s.scrNS = 1 → accessedBank s = parIdx s.cfg .NS) ∧
    (InMonitor s → s.scrNS ≠ 1 → accessedBank s = parIdx s.cfg .S) ∧
    (¬ InMonitor s → s.sec = .secure → accessedBank s = parIdx s.cfg .S) ∧
    (¬ InMonitor s → s.sec = .nonSecure → accessedBank s = parIdx s.cfg .NS)

/-- R170 with R175 (decisions D15, D23, D24): the 32-bit read gives bits [31:0] of the instance, or of a draw while a
result is pending; PAR, its flags and every other register are unchanged. -/
def Obligations.ParRead32GivesTheLowWord : Prop :=
  ∀ (t : Reg) (s : State), ¬ AtEL0 s → s.pc.toNat + 4 < 2 ^ 32 →
    ∃ s', exec (.parRead32 t) s = .next s' ∧ AccessFrame s s' ∧ s'.par = s.par ∧ s'.parDirty = s.parDirty ∧
      (∀ u, u ≠ t → s'.readX u = s.readX u) ∧
      (s.parDirty.get (accessedBank s) = false → s'.readX t = (s.par.get (accessedBank s)).extractLsb' 0 32) ∧
      (s.parDirty.get (accessedBank s) = true → ∃ n, s'.readX t = (Config.unknown 64 n).extractLsb' 0 32)

/-- R172 with R175 (decisions D15, D23, D24): the 64-bit read gives both halves of one value of the instance. -/
def Obligations.ParRead64GivesBothWords : Prop :=
  ∀ (t t2 : Reg) (s : State), t ≠ t2 → ¬ AtEL0 s → s.pc.toNat + 4 < 2 ^ 32 →
    ∃ s', exec (.parRead64 t t2) s = .next s' ∧ AccessFrame s s' ∧ s'.par = s.par ∧ s'.parDirty = s.parDirty ∧
      (∀ u, u ≠ t → u ≠ t2 → s'.readX u = s.readX u) ∧
      (s.parDirty.get (accessedBank s) = false → s'.readX t = (s.par.get (accessedBank s)).extractLsb' 0 32 ∧
        s'.readX t2 = (s.par.get (accessedBank s)).extractLsb' 32 32) ∧
      (s.parDirty.get (accessedBank s) = true → ∃ n, s'.readX t = (Config.unknown 64 n).extractLsb' 0 32 ∧
        s'.readX t2 = (Config.unknown 64 n).extractLsb' 32 32)

/-- R171 (decisions D15, D23, D24): the 32-bit write replaces bits [31:0] of the instance and leaves bits [63:32]; while a
result is pending it leaves a draw. -/
def Obligations.ParWrite32ReplacesTheLowWord : Prop :=
  ∀ (t : Reg) (s : State), ¬ AtEL0 s → s.pc.toNat + 4 < 2 ^ 32 →
    ∃ s', exec (.parWrite32 t) s = .next s' ∧ AccessFrame s s' ∧ s'.x = s.x ∧ s'.parDirty = s.parDirty ∧
      s'.par.get (accessedBank s).other = s.par.get (accessedBank s).other ∧
      (s.parDirty.get (accessedBank s) = false → (s'.par.get (accessedBank s)).extractLsb' 0 32 = s.readX t ∧
        (s'.par.get (accessedBank s)).extractLsb' 32 32 = (s.par.get (accessedBank s)).extractLsb' 32 32) ∧
      (s.parDirty.get (accessedBank s) = true → ∃ n, s'.par.get (accessedBank s) = Config.unknown 64 n)

/-- R173 (decisions D15, D23, D24): the 64-bit write puts `x[t2] : x[t]` in the instance, also when `t == t2`; while a
result is pending it leaves a draw. -/
def Obligations.ParWrite64ReplacesBothWords : Prop :=
  ∀ (t t2 : Reg) (s : State), ¬ AtEL0 s → s.pc.toNat + 4 < 2 ^ 32 →
    ∃ s', exec (.parWrite64 t t2) s = .next s' ∧ AccessFrame s s' ∧ s'.x = s.x ∧ s'.parDirty = s.parDirty ∧
      s'.par.get (accessedBank s).other = s.par.get (accessedBank s).other ∧
      (s.parDirty.get (accessedBank s) = false → (s'.par.get (accessedBank s)).extractLsb' 0 32 = s.readX t ∧
        (s'.par.get (accessedBank s)).extractLsb' 32 32 = s.readX t2) ∧
      (s.parDirty.get (accessedBank s) = true → ∃ n, s'.par.get (accessedBank s) = Config.unknown 64 n)

/-- R176, decision D15: ISB clears both flags and does nothing else, in every mode. R23, decision D3: it is refused where
`pc + 4` would wrap. -/
def Obligations.IsbClearsBothFlags : Prop :=
  ∀ s : State,
    (s.pc.toNat + 4 < 2 ^ 32 → exec .isb s = .next { s with parDirty := ⟨false, false⟩, pc := s.pc + 4 }) ∧
    (2 ^ 32 ≤ s.pc.toNat + 4 → exec .isb s = .refused .pcWraps)

/-- What a 64-bit write puts in PAR a 64-bit read gives back, whatever registers carry it (R172, R173). -/
def Obligations.Write64ThenRead64 : Prop :=
  ∀ (t t2 u u2 : Reg) (s s1 s2 : State), AtPL1OrHigher s → s.parDirty.get (accessedBank s) = false →
    exec (.parWrite64 t t2) s = .next s1 → exec (.parRead64 u u2) s1 = .next s2 →
    s2.readX u = s.readX t ∧ s2.readX u2 = s.readX t2

/-- R256, R176: after an address translation instruction that completes and an ISB, a 64-bit read gives exactly what the
instruction left in the instance the read reaches, whatever the visibility rule of the configuration. -/
def Obligations.SynchronisedReadSeesTheResult : Prop :=
  ∀ (i : Instr) (op : ATOp) (r u u2 : Reg) (s s1 s2 s3 : State), atForm i = some (op, r) → s.ended = none →
    exec i s = .next s1 → s1.ended = none → exec .isb s1 = .next s2 → exec (.parRead64 u u2) s2 = .next s3 →
    s3.readX u = (s1.par.get (accessedBank s)).extractLsb' 0 32 ∧
    s3.readX u2 = (s1.par.get (accessedBank s)).extractLsb' 32 32

/-! ### Whole-machine rules -/

/-- R7, R24, R26, R27, R31, R32, R46, R62: no instruction writes the configuration, the mode, the Security state,
PSTATE.PAN, SCR.NS, TTBCR.EAE, HCR.VM or a byte of memory. -/
def Obligations.ControlStateIsNeverWritten : Prop :=
  ∀ (i : Instr) (s t : State), exec i s = .next t → SameControl s t

/-- R22: the only instructions that write a general register are the two PAR reads, and only their own operands. -/
def Obligations.OnlyParReadsWriteGeneralRegisters : Prop :=
  ∀ (i : Instr) (s t : State) (u : Reg), exec i s = .next t → t.readX u ≠ s.readX u →
    i = .parRead32 u ∨ (∃ r, i = .parRead64 u r) ∨ (∃ r, i = .parRead64 r u)

/-- R23: an instruction that completes without an exception advances `pc` by 4, and never past the end of the address
space (decision D3). -/
def Obligations.CompletionAdvancesPcByFour : Prop :=
  ∀ (i : Instr) (s t : State), exec i s = .next t → s.ended = none → t.ended = none →
    t.pc = s.pc + 4 ∧ s.pc.toNat + 4 < 2 ^ 32

/-- R23, R230: the record of an exception names the instruction that raised it, and `pc` still holds its address. Only an
asynchronous External abort may record that `pc` had advanced (R206, log entry 10). -/
def Obligations.ExceptionRecordNamesTheInstruction : Prop :=
  ∀ (i : Instr) (s t : State) (r : ExceptionRecord), exec i s = .next t → s.ended = none → t.ended = some r →
    r.atPc = s.pc ∧ t.pc = s.pc ∧ (r.pcAdvanced = true → r.kind = .dataAbort .async)

/-- R203: without an exception no fault status, fault address or syndrome register is written. -/
def Obligations.FaultRegistersChangeOnlyWithAnException : Prop :=
  ∀ (i : Instr) (s t : State), exec i s = .next t → s.ended = none → t.ended = none → SameFaultRegisters s t

/-- R34: HPFAR is written by the Hyp Trap of an ATS1C** instruction in a Non-secure PL1 mode only. -/
def Obligations.HpfarChangesOnlyAtAHypTrap : Prop :=
  ∀ (i : Instr) (s t : State), Admitted s → exec i s = .next t → t.hpfar ≠ s.hpfar →
    t.ended = some ⟨.hypTrap, .hypMode, s.pc, false⟩ ∧ NonSecurePL1 s ∧ ∃ op r, atForm i = some (op, r) ∧ op.family = .ats1c

/-- R211, R236: an instruction writes at most one instance of PAR. -/
def Obligations.AtMostOneParIsWritten : Prop :=
  ∀ (i : Instr) (s t : State), exec i s = .next t →
    t.par.secure = s.par.secure ∨ t.par.nonSecure = s.par.nonSecure

/-- "Software executing at EL0 never has any visibility of the address translation instructions" (R103 case (1), R174,
R221(d)): in User mode no instruction changes PAR or a general register, and what an instruction does there does not
depend on what PAR holds. -/
def Obligations.UserModeNeitherSeesNorWritesPar : Prop :=
  ∀ (i : Instr) (s : State), AtEL0 s →
    (∀ t, exec i s = .next t → t.par = s.par ∧ t.x = s.x) ∧
    (∀ v : Banked DWord, exec i { s with par := v } = mapNext (fun t => { t with par := v }) (exec i s))

/-- R184, R174, R211, R236: in Non-secure state, where PAR is banked, no instruction writes the Secure instance, and
nothing that an instruction does depends on what it holds. -/
def Obligations.NonSecureStateNeverTouchesTheSecurePar : Prop :=
  ∀ (i : Instr) (s : State) (v : DWord), Admitted s → s.sec = .nonSecure → EL3AArch32 s.cfg →
    exec i (s.withSecurePar v) = mapNext (·.withSecurePar v) (exec i s)

/-- A run that completes is sequential: from a state with the invariant it keeps the invariant, the control state, memory
and the fault registers, and `pc` has advanced by 4 for each instruction (R20, R23, R230). -/
def Obligations.CompletedRunsAreSequential : Prop :=
  ∀ (k : Nat) (s t : State), Inv s → Completes k s t →
    Inv t ∧ SameControl s t ∧ SameFaultRegisters s t ∧ t.pc.toNat = s.pc.toNat + 4 * k

/-! ### Packing -/

/-- R187, for the general-knowledge layout: the fields of the 32-bit format. -/
def Obligations.FieldsOfThe32BitFormat : Prop :=
  ∀ (c : Cfg) (oa : OutAddr) (a : Attrs) (st : Stage) (w : Bool) (code : BitVec 6), c.packPAR = .generalKnowledge →
    let ok := packPAR32 c (.ok oa a)
    let fault := packPAR32 c (.fault st w code)
    (ok.extractLsb' 12 20 = oa.extractLsb' 12 20 ∧ ok.extractLsb' 11 1 = 0#1 ∧ ok.extractLsb' 10 1 = a.short.nos ∧
      ok.extractLsb' 9 1 = a.short.ns ∧ ok.extractLsb' 8 1 = a.short.impdef ∧ ok.extractLsb' 7 1 = a.short.sh ∧
      ok.extractLsb' 4 3 = a.short.inner ∧ ok.extractLsb' 2 2 = a.short.outer ∧ ok.extractLsb' 1 1 = a.short.ss ∧
      ok.extractLsb' 0 1 = 0#1) ∧
    (fault.extractLsb' 7 25 = 0#25 ∧ fault.extractLsb' 1 6 = code ∧ fault.extractLsb' 0 1 = 1#1)

/-- R188, for the general-knowledge layout: the fields of the 64-bit format. -/
def Obligations.FieldsOfThe64BitFormat : Prop :=
  ∀ (c : Cfg) (oa : OutAddr) (a : Attrs) (st : Stage) (w : Bool) (code : BitVec 6), c.packPAR = .generalKnowledge →
    let ok := packPAR64 c (.ok oa a)
    let fault := packPAR64 c (.fault st w code)
    (ok.extractLsb' 56 8 = a.long.attr ∧ ok.extractLsb' 40 16 = 0#16 ∧ ok.extractLsb' 12 28 = oa.extractLsb' 12 28 ∧
      ok.extractLsb' 11 1 = 1#1 ∧ ok.extractLsb' 10 1 = a.long.impdef ∧ ok.extractLsb' 9 1 = a.long.ns ∧
      ok.extractLsb' 7 2 = a.long.sh ∧ ok.extractLsb' 1 6 = 0#6 ∧ ok.extractLsb' 0 1 = 0#1) ∧
    (fault.extractLsb' 12 52 = 0#52 ∧ fault.extractLsb' 11 1 = 1#1 ∧ fault.extractLsb' 10 1 = 0#1 ∧
      (fault.extractLsb' 9 1 = 1#1 ↔ st = .two) ∧ (fault.extractLsb' 8 1 = 1#1 ↔ w = true) ∧
      fault.extractLsb' 7 1 = 0#1 ∧ fault.extractLsb' 1 6 = code ∧ fault.extractLsb' 0 1 = 1#1)

/-- R190, for every configuration: a fault and a success of one format never pack to the same bits, and the address of a
success can be recovered from its packing to the extent the format can hold it. That the extent is the page address, and
for a supersection in the 32-bit format of a configuration without the general-knowledge layouts `oa[31:24]`, is log entry
4. -/
def Obligations.EveryPackingSatisfiesTheLaws : Prop :=
  ∀ (c : Cfg) (st : Stage) (w : Bool) (code : BitVec 6) (oa oa' : OutAddr) (a a' : Attrs),
    packPAR32 c (.fault st w code) ≠ packPAR32 c (.ok oa a) ∧
    packPAR64 c (.fault st w code) ≠ packPAR64 c (.ok oa a) ∧
    (packPAR32 c (.ok oa a) = packPAR32 c (.ok oa' a') → oa.extractLsb' 24 8 = oa'.extractLsb' 24 8 ∧
      (c.packPAR = .generalKnowledge ∨ (a.short.ss = 0 ∧ a'.short.ss = 0) →
        oa.extractLsb' 12 20 = oa'.extractLsb' 12 20)) ∧
    (packPAR64 c (.ok oa a) = packPAR64 c (.ok oa' a') → oa.extractLsb' 12 28 = oa'.extractLsb' 12 28)
end

