-- ==== Sys2Proof/Laws/State.lean ====
section
/-! SUPPORT. What each update of the state changes, field by field. Each lemma of this file is a conjunction of one
equation per field, so that `simp` takes every one of them as a rewrite rule of its own and no later proof unfolds a
record update. -/

namespace Sys2Proof.Machine

/-! ### Banked registers -/

@[simp] theorem Bank.other_ne (b : Bank) : b.other ≠ b := by cases b <;> decide

@[simp] theorem Bank.ne_other (b : Bank) : b ≠ b.other := by cases b <;> decide

theorem Bank.eq_or_other (a b : Bank) : a = b ∨ a = b.other := by cases a <;> cases b <;> decide

@[simp] theorem Banked.get_set_same {α : Type} (r : Banked α) (b : Bank) (v : α) : (r.set b v).get b = v := by
  cases b <;> rfl

@[simp] theorem Banked.get_other_set {α : Type} (r : Banked α) (b : Bank) (v : α) :
    (r.set b v).get b.other = r.get b.other := by
  cases b <;> rfl

theorem Banked.get_set_of_ne {α : Type} (r : Banked α) {a b : Bank} (h : a ≠ b) (v : α) :
    (r.set b v).get a = r.get a := by
  cases a <;> cases b <;> first | rfl | exact absurd rfl h

@[simp] theorem Banked.set_set {α : Type} (r : Banked α) (b : Bank) (v w : α) : (r.set b v).set b w = r.set b w := by
  cases b <;> rfl

/-- Without an EL3 that uses AArch32 every name reaches the one instance (R29). -/
theorem parIdx_of_not_banked {c : Cfg} (h : ¬ EL3AArch32 c) (b : Bank) : parIdx c b = .NS := by simp [parIdx, h]

/-- With an EL3 that uses AArch32 each name reaches its own instance (R29). -/
theorem parIdx_of_banked {c : Cfg} (h : EL3AArch32 c) (b : Bank) : parIdx c b = b := by simp [parIdx, h]

@[simp] theorem parIdx_NS (c : Cfg) : parIdx c .NS = .NS := by simp [parIdx]

/-! ### The updates -/

/-- A draw changes the counter only. -/
@[simp] theorem State.drew_fields (s : State) :
    (s.drew).cfg = s.cfg ∧ (s.drew).x = s.x ∧ (s.drew).pc = s.pc ∧ (s.drew).pan = s.pan ∧
    (s.drew).mode = s.mode ∧ (s.drew).sec = s.sec ∧ (s.drew).par = s.par ∧ (s.drew).parDirty = s.parDirty ∧
    (s.drew).scrNS = s.scrNS ∧ (s.drew).ttbcrEAE = s.ttbcrEAE ∧ (s.drew).hcrVM = s.hcrVM ∧
    (s.drew).hsr = s.hsr ∧ (s.drew).hpfar = s.hpfar ∧ (s.drew).hdfar = s.hdfar ∧ (s.drew).dfsr = s.dfsr ∧
    (s.drew).dfar = s.dfar ∧ (s.drew).mem = s.mem ∧ (s.drew).ended = s.ended ∧ (s.drew).answers = s.answers ∧
    (s.drew).draws = s.draws + 1 := by
  refine ⟨rfl, rfl, rfl, rfl, rfl, rfl, rfl, rfl, rfl, rfl, rfl, rfl, rfl, rfl, rfl, rfl, rfl, rfl, rfl, rfl⟩

/-- A write of PAR changes one instance only. -/
@[simp] theorem State.writePar_fields (s : State) (i : Bank) (v : DWord) :
    (s.writePar i v).cfg = s.cfg ∧ (s.writePar i v).x = s.x ∧ (s.writePar i v).pc = s.pc ∧
    (s.writePar i v).pan = s.pan ∧ (s.writePar i v).mode = s.mode ∧ (s.writePar i v).sec = s.sec ∧
    (s.writePar i v).par = s.par.set i v ∧ (s.writePar i v).parDirty = s.parDirty ∧
    (s.writePar i v).scrNS = s.scrNS ∧ (s.writePar i v).ttbcrEAE = s.ttbcrEAE ∧
    (s.writePar i v).hcrVM = s.hcrVM ∧ (s.writePar i v).hsr = s.hsr ∧ (s.writePar i v).hpfar = s.hpfar ∧
    (s.writePar i v).hdfar = s.hdfar ∧ (s.writePar i v).dfsr = s.dfsr ∧ (s.writePar i v).dfar = s.dfar ∧
    (s.writePar i v).mem = s.mem ∧ (s.writePar i v).ended = s.ended ∧ (s.writePar i v).answers = s.answers ∧
    (s.writePar i v).draws = s.draws := by
  refine ⟨rfl, rfl, rfl, rfl, rfl, rfl, rfl, rfl, rfl, rfl, rfl, rfl, rfl, rfl, rfl, rfl, rfl, rfl, rfl, rfl⟩

/-- `PAR[i] <- UNKNOWN(64)` changes one instance, to a draw (R211). -/
@[simp] theorem State.unknownPar_fields (s : State) (i : Bank) :
    (s.unknownPar i).cfg = s.cfg ∧ (s.unknownPar i).x = s.x ∧ (s.unknownPar i).pc = s.pc ∧
    (s.unknownPar i).pan = s.pan ∧ (s.unknownPar i).mode = s.mode ∧ (s.unknownPar i).sec = s.sec ∧
    (s.unknownPar i).par = s.par.set i (Config.unknown 64 s.draws) ∧ (s.unknownPar i).parDirty = s.parDirty ∧
    (s.unknownPar i).scrNS = s.scrNS ∧ (s.unknownPar i).ttbcrEAE = s.ttbcrEAE ∧
    (s.unknownPar i).hcrVM = s.hcrVM ∧ (s.unknownPar i).hsr = s.hsr ∧ (s.unknownPar i).hpfar = s.hpfar ∧
    (s.unknownPar i).hdfar = s.hdfar ∧ (s.unknownPar i).dfsr = s.dfsr ∧ (s.unknownPar i).dfar = s.dfar ∧
    (s.unknownPar i).mem = s.mem ∧ (s.unknownPar i).ended = s.ended ∧ (s.unknownPar i).answers = s.answers ∧
    (s.unknownPar i).draws = s.draws + 1 := by
  refine ⟨rfl, rfl, rfl, rfl, rfl, rfl, rfl, rfl, rfl, rfl, rfl, rfl, rfl, rfl, rfl, rfl, rfl, rfl, rfl, rfl⟩

/-- The context synchronization event clears the flags of both instances (R176). -/
@[simp] theorem State.synchronize_fields (s : State) :
    (s.synchronize).cfg = s.cfg ∧ (s.synchronize).x = s.x ∧ (s.synchronize).pc = s.pc ∧
    (s.synchronize).pan = s.pan ∧ (s.synchronize).mode = s.mode ∧ (s.synchronize).sec = s.sec ∧
    (s.synchronize).par = s.par ∧ (s.synchronize).parDirty = ⟨false, false⟩ ∧ (s.synchronize).scrNS = s.scrNS ∧
    (s.synchronize).ttbcrEAE = s.ttbcrEAE ∧ (s.synchronize).hcrVM = s.hcrVM ∧ (s.synchronize).hsr = s.hsr ∧
    (s.synchronize).hpfar = s.hpfar ∧ (s.synchronize).hdfar = s.hdfar ∧ (s.synchronize).dfsr = s.dfsr ∧
    (s.synchronize).dfar = s.dfar ∧ (s.synchronize).mem = s.mem ∧ (s.synchronize).ended = s.ended ∧
    (s.synchronize).answers = s.answers ∧ (s.synchronize).draws = s.draws := by
  refine ⟨rfl, rfl, rfl, rfl, rfl, rfl, rfl, rfl, rfl, rfl, rfl, rfl, rfl, rfl, rfl, rfl, rfl, rfl, rfl, rfl⟩

/-- A write of a general register changes that register only. -/
@[simp] theorem State.writeX_fields (s : State) (t : Reg) (v : Word) :
    (s.writeX t v).cfg = s.cfg ∧ (s.writeX t v).x = s.x.set t.val v ∧ (s.writeX t v).pc = s.pc ∧
    (s.writeX t v).pan = s.pan ∧ (s.writeX t v).mode = s.mode ∧ (s.writeX t v).sec = s.sec ∧
    (s.writeX t v).par = s.par ∧ (s.writeX t v).parDirty = s.parDirty ∧ (s.writeX t v).scrNS = s.scrNS ∧
    (s.writeX t v).ttbcrEAE = s.ttbcrEAE ∧ (s.writeX t v).hcrVM = s.hcrVM ∧ (s.writeX t v).hsr = s.hsr ∧
    (s.writeX t v).hpfar = s.hpfar ∧ (s.writeX t v).hdfar = s.hdfar ∧ (s.writeX t v).dfsr = s.dfsr ∧
    (s.writeX t v).dfar = s.dfar ∧ (s.writeX t v).mem = s.mem ∧ (s.writeX t v).ended = s.ended ∧
    (s.writeX t v).answers = s.answers ∧ (s.writeX t v).draws = s.draws := by
  refine ⟨rfl, rfl, rfl, rfl, rfl, rfl, rfl, rfl, rfl, rfl, rfl, rfl, rfl, rfl, rfl, rfl, rfl, rfl, rfl, rfl⟩

/-- A write of a pair changes those two registers only. -/
@[simp] theorem State.writePair_fields (s : State) (t t2 : Reg) (v : DWord) :
    (s.writePair t t2 v).cfg = s.cfg ∧ (s.writePair t t2 v).x = (s.x.set t.val v.low).set t2.val v.high ∧
    (s.writePair t t2 v).pc = s.pc ∧ (s.writePair t t2 v).pan = s.pan ∧ (s.writePair t t2 v).mode = s.mode ∧
    (s.writePair t t2 v).sec = s.sec ∧ (s.writePair t t2 v).par = s.par ∧
    (s.writePair t t2 v).parDirty = s.parDirty ∧ (s.writePair t t2 v).scrNS = s.scrNS ∧
    (s.writePair t t2 v).ttbcrEAE = s.ttbcrEAE ∧ (s.writePair t t2 v).hcrVM = s.hcrVM ∧
    (s.writePair t t2 v).hsr = s.hsr ∧ (s.writePair t t2 v).hpfar = s.hpfar ∧
    (s.writePair t t2 v).hdfar = s.hdfar ∧ (s.writePair t t2 v).dfsr = s.dfsr ∧
    (s.writePair t t2 v).dfar = s.dfar ∧ (s.writePair t t2 v).mem = s.mem ∧
    (s.writePair t t2 v).ended = s.ended ∧ (s.writePair t t2 v).answers = s.answers ∧
    (s.writePair t t2 v).draws = s.draws := by
  refine ⟨rfl, rfl, rfl, rfl, rfl, rfl, rfl, rfl, rfl, rfl, rfl, rfl, rfl, rfl, rfl, rfl, rfl, rfl, rfl, rfl⟩

/-- A write of HSR changes HSR only, its unnamed fields to a draw (R33). -/
@[simp] theorem State.writeHsr_fields (s : State) (w c : Bool) :
    (s.writeHsr w c).cfg = s.cfg ∧ (s.writeHsr w c).x = s.x ∧ (s.writeHsr w c).pc = s.pc ∧
    (s.writeHsr w c).pan = s.pan ∧ (s.writeHsr w c).mode = s.mode ∧ (s.writeHsr w c).sec = s.sec ∧
    (s.writeHsr w c).par = s.par ∧ (s.writeHsr w c).parDirty = s.parDirty ∧ (s.writeHsr w c).scrNS = s.scrNS ∧
    (s.writeHsr w c).ttbcrEAE = s.ttbcrEAE ∧ (s.writeHsr w c).hcrVM = s.hcrVM ∧
    (s.writeHsr w c).hsr = ⟨w, c, Config.unknown 32 s.draws⟩ ∧ (s.writeHsr w c).hpfar = s.hpfar ∧
    (s.writeHsr w c).hdfar = s.hdfar ∧ (s.writeHsr w c).dfsr = s.dfsr ∧ (s.writeHsr w c).dfar = s.dfar ∧
    (s.writeHsr w c).mem = s.mem ∧ (s.writeHsr w c).ended = s.ended ∧ (s.writeHsr w c).answers = s.answers ∧
    (s.writeHsr w c).draws = s.draws + 1 := by
  refine ⟨rfl, rfl, rfl, rfl, rfl, rfl, rfl, rfl, rfl, rfl, rfl, rfl, rfl, rfl, rfl, rfl, rfl, rfl, rfl, rfl⟩

/-- `MarkDirty` sets one flag, and only where a result needs a context synchronization event (R212). -/
@[simp] theorem State.markDirty_fields (s : State) (i : Bank) :
    (s.markDirty i).cfg = s.cfg ∧ (s.markDirty i).x = s.x ∧ (s.markDirty i).pc = s.pc ∧
    (s.markDirty i).pan = s.pan ∧ (s.markDirty i).mode = s.mode ∧ (s.markDirty i).sec = s.sec ∧
    (s.markDirty i).par = s.par ∧
    (s.markDirty i).parDirty = (if s.cfg.parSync = .needsContextSync then s.parDirty.set i true else s.parDirty) ∧
    (s.markDirty i).scrNS = s.scrNS ∧ (s.markDirty i).ttbcrEAE = s.ttbcrEAE ∧ (s.markDirty i).hcrVM = s.hcrVM ∧
    (s.markDirty i).hsr = s.hsr ∧ (s.markDirty i).hpfar = s.hpfar ∧ (s.markDirty i).hdfar = s.hdfar ∧
    (s.markDirty i).dfsr = s.dfsr ∧ (s.markDirty i).dfar = s.dfar ∧ (s.markDirty i).mem = s.mem ∧
    (s.markDirty i).ended = s.ended ∧ (s.markDirty i).answers = s.answers ∧ (s.markDirty i).draws = s.draws := by
  unfold State.markDirty
  split <;> simp_all

/-- Reading PAR changes nothing but the draw counter (R170). -/
@[simp] theorem State.afterReadPar_fields (s : State) (i : Bank) :
    (s.afterReadPar i).cfg = s.cfg ∧ (s.afterReadPar i).x = s.x ∧ (s.afterReadPar i).pc = s.pc ∧
    (s.afterReadPar i).pan = s.pan ∧ (s.afterReadPar i).mode = s.mode ∧ (s.afterReadPar i).sec = s.sec ∧
    (s.afterReadPar i).par = s.par ∧ (s.afterReadPar i).parDirty = s.parDirty ∧
    (s.afterReadPar i).scrNS = s.scrNS ∧ (s.afterReadPar i).ttbcrEAE = s.ttbcrEAE ∧
    (s.afterReadPar i).hcrVM = s.hcrVM ∧ (s.afterReadPar i).hsr = s.hsr ∧ (s.afterReadPar i).hpfar = s.hpfar ∧
    (s.afterReadPar i).hdfar = s.hdfar ∧ (s.afterReadPar i).dfsr = s.dfsr ∧ (s.afterReadPar i).dfar = s.dfar ∧
    (s.afterReadPar i).mem = s.mem ∧ (s.afterReadPar i).ended = s.ended ∧ (s.afterReadPar i).answers = s.answers := by
  unfold State.afterReadPar
  split <;> simp_all

/-- A direct write of PAR changes one instance only (R171, R173). -/
@[simp] theorem State.directWritePar_fields (s : State) (i : Bank) (v : DWord) :
    (s.directWritePar i v).cfg = s.cfg ∧ (s.directWritePar i v).x = s.x ∧ (s.directWritePar i v).pc = s.pc ∧
    (s.directWritePar i v).pan = s.pan ∧ (s.directWritePar i v).mode = s.mode ∧
    (s.directWritePar i v).sec = s.sec ∧
    (s.directWritePar i v).par = s.par.set i (if s.parDirty.get i then Config.unknown 64 s.draws else v) ∧
    (s.directWritePar i v).parDirty = s.parDirty ∧ (s.directWritePar i v).scrNS = s.scrNS ∧
    (s.directWritePar i v).ttbcrEAE = s.ttbcrEAE ∧ (s.directWritePar i v).hcrVM = s.hcrVM ∧
    (s.directWritePar i v).hsr = s.hsr ∧ (s.directWritePar i v).hpfar = s.hpfar ∧
    (s.directWritePar i v).hdfar = s.hdfar ∧ (s.directWritePar i v).dfsr = s.dfsr ∧
    (s.directWritePar i v).dfar = s.dfar ∧ (s.directWritePar i v).mem = s.mem ∧
    (s.directWritePar i v).ended = s.ended ∧ (s.directWritePar i v).answers = s.answers := by
  unfold State.directWritePar
  split <;> simp_all

/-- Asking the oracle uses up one answer and changes nothing else. -/
@[simp] theorem State.asked_fields (s : State) :
    (s.asked).cfg = s.cfg ∧ (s.asked).x = s.x ∧ (s.asked).pc = s.pc ∧ (s.asked).pan = s.pan ∧
    (s.asked).mode = s.mode ∧ (s.asked).sec = s.sec ∧ (s.asked).par = s.par ∧ (s.asked).parDirty = s.parDirty ∧
    (s.asked).scrNS = s.scrNS ∧ (s.asked).ttbcrEAE = s.ttbcrEAE ∧ (s.asked).hcrVM = s.hcrVM ∧
    (s.asked).hsr = s.hsr ∧ (s.asked).hpfar = s.hpfar ∧ (s.asked).hdfar = s.hdfar ∧ (s.asked).dfsr = s.dfsr ∧
    (s.asked).dfar = s.dfar ∧ (s.asked).mem = s.mem ∧ (s.asked).ended = s.ended ∧
    (s.asked).answers = s.answers.tail := by
  unfold State.asked
  cases h : s.answers <;> simp [h]

/-- Packing in the 32-bit format changes nothing but the draw counter. -/
@[simp] theorem afterLow32_fields (r : ParResult) (s : State) :
    (afterLow32 r s).cfg = s.cfg ∧ (afterLow32 r s).x = s.x ∧ (afterLow32 r s).pc = s.pc ∧
    (afterLow32 r s).pan = s.pan ∧ (afterLow32 r s).mode = s.mode ∧ (afterLow32 r s).sec = s.sec ∧
    (afterLow32 r s).par = s.par ∧ (afterLow32 r s).parDirty = s.parDirty ∧ (afterLow32 r s).scrNS = s.scrNS ∧
    (afterLow32 r s).ttbcrEAE = s.ttbcrEAE ∧ (afterLow32 r s).hcrVM = s.hcrVM ∧ (afterLow32 r s).hsr = s.hsr ∧
    (afterLow32 r s).hpfar = s.hpfar ∧ (afterLow32 r s).hdfar = s.hdfar ∧ (afterLow32 r s).dfsr = s.dfsr ∧
    (afterLow32 r s).dfar = s.dfar ∧ (afterLow32 r s).mem = s.mem ∧ (afterLow32 r s).ended = s.ended ∧
    (afterLow32 r s).answers = s.answers := by
  unfold afterLow32
  split <;> simp_all

/-- The fields of a completed instruction's state. -/
theorem State.complete_of_no_wrap (s : State) (h : s.pc.toNat + 4 < addressSpace) :
    s.complete = .next { s with pc := s.pc + 4 } := by
  simp [State.complete, h]

theorem State.complete_eq_next {s t : State} (h : s.complete = .next t) :
    s.pc.toNat + 4 < addressSpace ∧ t = { s with pc := s.pc + 4 } := by
  unfold State.complete at h
  split at h
  · exact ⟨‹_›, by cases h; rfl⟩
  · cases h

/-! ### General registers -/

@[simp] theorem State.readX_writeX_same (s : State) (t : Reg) (v : Word) : (s.writeX t v).readX t = v := by
  simp [State.readX]

theorem State.readX_writeX_of_ne (s : State) {t u : Reg} (h : u ≠ t) (v : Word) : (s.writeX t v).readX u = s.readX u := by
  have : t.val ≠ u.val := fun e => h (Fin.ext e.symm)
  simp [State.readX, this]

end Sys2Proof.Machine
end

