-- ==== Sys2Proof/Laws/Memory.lean ====
section
/-! SUPPORT. Memory: a read after a write, the canonical form, and the word a load places. -/

namespace Sys2Proof.Machine

@[simp] theorem Memory.read_write_same (m : Memory) (a : Nat) (b : Byte) : (m.write a b).read a = some b := by
  induction m with
  | nil => simp [Memory.write, Memory.read]
  | cons c m ih =>
    obtain ⟨k, v⟩ := c
    unfold Memory.write
    split
    · simp [Memory.read]
    · split
      · simp [Memory.read]
      · simp [Memory.read, ih, show k ≠ a by omega]

theorem Memory.read_write_of_ne (m : Memory) {a a' : Nat} (h : a' ≠ a) (b : Byte) :
    (m.write a b).read a' = m.read a' := by
  induction m with
  | nil => simp [Memory.write, Memory.read, h.symm]
  | cons c m ih =>
    obtain ⟨k, v⟩ := c
    unfold Memory.write
    split
    · simp [Memory.read, h.symm]
    · split
      · subst_vars
        simp [Memory.read, h.symm]
      · simp [Memory.read, ih]

/-- Every address of `m.write a b` is `a` or an address of `m`. -/
theorem Memory.mem_write {m : Memory} {a : Nat} {b : Byte} {c : Host.Cell} (h : c ∈ m.write a b) :
    c.1 = a ∨ c ∈ m := by
  induction m with
  | nil => simp [Memory.write] at h; simp [h]
  | cons d m ih =>
    obtain ⟨k, v⟩ := d
    unfold Memory.write at h
    split at h
    · rcases List.mem_cons.mp h with rfl | h
      · exact .inl rfl
      · exact .inr h
    · split at h
      · rcases List.mem_cons.mp h with rfl | h
        · exact .inl rfl
        · exact .inr (List.mem_cons_of_mem _ h)
      · rcases List.mem_cons.mp h with rfl | h
        · exact .inr (List.mem_cons_self)
        · exact (ih h).imp id (List.mem_cons_of_mem _)

/-- A write keeps the canonical form. -/
theorem Memory.wf_write {m : Memory} (h : m.wf) {a : Nat} (ha : a < addressSpace) (b : Byte) : (m.write a b).wf := by
  refine ⟨?_, fun c hc => ?_⟩
  · obtain ⟨hs, -⟩ := h
    induction m with
    | nil => simp [Memory.write]
    | cons d m ih =>
      obtain ⟨k, v⟩ := d
      obtain ⟨hk, hm⟩ := List.pairwise_cons.mp hs
      unfold Memory.write
      split
      · refine List.pairwise_cons.mpr ⟨fun c hc => ?_, hs⟩
        rcases List.mem_cons.mp hc with rfl | hc
        · assumption
        · have : k < c.1 := hk c hc
          show a < c.1
          omega
      · split
        · subst_vars
          exact List.pairwise_cons.mpr ⟨hk, hm⟩
        · refine List.pairwise_cons.mpr ⟨fun c hc => ?_, ih hm⟩
          show k < c.1
          rcases Memory.mem_write hc with h | h
          · omega
          · exact hk c h
  · rcases Memory.mem_write hc with h' | h'
    · omega
    · exact h.2 c h'

theorem Memory.wf_writeAt {m : Memory} (h : m.wf) (a : Word) (k : Nat) (b : Byte) : (m.writeAt a k b).wf :=
  Memory.wf_write h (a + BitVec.ofNat 32 k).isLt b

/-- Placing a word keeps the canonical form. -/
theorem Memory.wf_placeWord {m : Memory} (h : m.wf) (a w : Word) : (m.placeWord a w).wf :=
  Memory.wf_writeAt (Memory.wf_writeAt (Memory.wf_writeAt (Memory.wf_writeAt h _ _ _) _ _ _) _ _ _) _ _ _

/-- The bytes of a word make the word (R63). -/
theorem wordOfBytes_byteOfWord (w : Word) :
    wordOfBytes (byteOfWord w 0) (byteOfWord w 1) (byteOfWord w 2) (byteOfWord w 3) = w := by
  unfold wordOfBytes byteOfWord
  rw [BitVec.extractLsb'_append_extractLsb'_eq_extractLsb' (by rfl),
    BitVec.extractLsb'_append_extractLsb'_eq_extractLsb' (by rfl),
    BitVec.extractLsb'_append_extractLsb'_eq_extractLsb' (by rfl)]
  exact BitVec.extractLsb'_eq_self

/-- The word that was placed is the word that is fetched. -/
@[simp] theorem Memory.word_placeWord (m : Memory) (a w : Word) : (m.placeWord a w).word a = some w := by
  have ne : ∀ j k : Nat, j < 4 → k < 4 → j ≠ k → (a + BitVec.ofNat 32 j).toNat ≠ (a + BitVec.ofNat 32 k).toNat := by
    intro j k hj hk h
    simp only [BitVec.toNat_add, BitVec.toNat_ofNat]
    omega
  have rd : ∀ (m : Memory) (j k : Nat) (b : Byte), j < 4 → k < 4 → j ≠ k →
      (m.writeAt a j b).read (a + BitVec.ofNat 32 k).toNat = m.read (a + BitVec.ofNat 32 k).toNat :=
    fun m j k b hj hk h => Memory.read_write_of_ne m (ne k j hk hj h.symm) b
  have same : ∀ (m : Memory) (j : Nat) (b : Byte), (m.writeAt a j b).read (a + BitVec.ofNat 32 j).toNat = some b :=
    fun m j b => Memory.read_write_same m _ b
  have h0 : (m.placeWord a w).read a.toNat = some (byteOfWord w 0) := by
    have := same m 0 (byteOfWord w 0)
    unfold Memory.placeWord
    have e : a.toNat = (a + BitVec.ofNat 32 0).toNat := by simp
    rw [e, rd _ 3 0 _ (by omega) (by omega) (by omega), rd _ 2 0 _ (by omega) (by omega) (by omega),
      rd _ 1 0 _ (by omega) (by omega) (by omega), this]
  have h1 : (m.placeWord a w).read (a + 1).toNat = some (byteOfWord w 1) := by
    unfold Memory.placeWord
    rw [show (a + 1 : Word) = a + BitVec.ofNat 32 1 from rfl, rd _ 3 1 _ (by omega) (by omega) (by omega),
      rd _ 2 1 _ (by omega) (by omega) (by omega), same]
  have h2 : (m.placeWord a w).read (a + 2).toNat = some (byteOfWord w 2) := by
    unfold Memory.placeWord
    rw [show (a + 2 : Word) = a + BitVec.ofNat 32 2 from rfl, rd _ 3 2 _ (by omega) (by omega) (by omega), same]
  have h3 : (m.placeWord a w).read (a + 3).toNat = some (byteOfWord w 3) := by
    unfold Memory.placeWord
    rw [show (a + 3 : Word) = a + BitVec.ofNat 32 3 from rfl, same]
  simp only [Memory.word, h0, h1, h2, h3, wordOfBytes_byteOfWord]

end Sys2Proof.Machine
end

