-- ==== Sys2Proof/Laws/Decode.lean ====
section
/-! SUPPORT. The decoder and the encoder: the lemmas a claim about an encoding cites. -/

namespace Sys2Proof

/-- A register is read back from its field (R84). -/
@[simp] theorem regOfField_fieldOfReg (t : Reg) : regOfField (fieldOfReg t) = some t := by
  revert t; decide

/-- A field names no register exactly when it is 15 (R84). -/
theorem regOfField_eq_none {f : BitVec 4} : regOfField f = none ↔ f = 15#4 := by
  revert f; decide

/-- The field of the register a field names is that field. -/
theorem fieldOfReg_of_regOfField {f : BitVec 4} {t : Reg} (h : regOfField f = some t) : fieldOfReg t = f := by
  revert f t; decide

/-- No two rows of R88 with one register operand match the same word, and the same of the two-register rows: the decoder
is unambiguous. -/
theorem oneRegRows_distinct : (oneRegRows.map Prod.fst).Nodup := by decide

theorem twoRegRows_distinct : (twoRegRows.map Prod.fst).Nodup := by decide

/-- What a lookup in a table of rows finds is a row of the table. -/
theorem mem_of_lookup {α : Type} {k : Word} {v : α} {l : List (Word × α)} (h : l.lookup k = some v) : (k, v) ∈ l := by
  induction l with
  | nil => simp at h
  | cons c l ih =>
    obtain ⟨a, b⟩ := c
    by_cases e : k = a
    · subst e
      simp [List.lookup] at h
      simp [h]
    · simp [List.lookup, beq_false_of_ne e] at h
      exact List.mem_cons_of_mem _ (ih h)

/-- A lookup finds a row exactly when the key is in the table. -/
theorem lookup_eq_none {α : Type} {k : Word} {l : List (Word × α)} (h : k ∉ l.map Prod.fst) : l.lookup k = none := by
  cases e : l.lookup k with
  | none => rfl
  | some v => exact absurd (List.mem_map_of_mem (mem_of_lookup e)) h

theorem exists_lookup {α : Type} {k : Word} {l : List (Word × α)} (h : k ∈ l.map Prod.fst) :
    ∃ v, l.lookup k = some v := by
  cases e : l.lookup k with
  | none =>
    obtain ⟨p, hp, rfl⟩ := List.mem_map.mp h
    have := List.lookup_eq_none_iff.mp e p hp
    simp at this
  | some v => exact ⟨v, rfl⟩

/-- What a one-register row decodes to. -/
theorem decodeOneReg_eq_ok {w : Word} {mk : Reg → Instr} {i : Instr} (h : decodeOneReg w mk = .ok i) :
    ∃ t, regOfField (rtField w) = some t ∧ i = mk t := by
  unfold decodeOneReg at h
  split at h
  · cases h
  · exact ⟨_, ‹_›, by cases h; rfl⟩

/-- What a two-register row decodes to. -/
theorem decodeTwoReg_eq_ok {w : Word} {mk : Reg → Reg → Instr} {i : Instr} (h : decodeTwoReg w mk = .ok i) :
    ∃ t t2, regOfField (rtField w) = some t ∧ regOfField (rt2Field w) = some t2 ∧ i = mk t t2 ∧
      (mk t t2).wellFormed = true := by
  unfold decodeTwoReg at h
  split at h
  · cases h
  · cases h
  · split at h
    · cases h
      exact ⟨_, _, ‹_›, ‹_›, rfl, ‹_›⟩
    · cases h

/-- Everything `decode` can answer: a one-register row, a two-register row, or ISB. -/
theorem decode_eq_ok {w : Word} {i : Instr} (h : decode w = .ok i) :
    (∃ mk t, oneRegRows.lookup (w &&& oneRegMask) = some mk ∧ regOfField (rtField w) = some t ∧ i = mk t) ∨
    (∃ mk t t2, twoRegRows.lookup (w &&& twoRegMask) = some mk ∧ regOfField (rtField w) = some t ∧
      regOfField (rt2Field w) = some t2 ∧ i = mk t t2 ∧ i.wellFormed = true) ∨
    (w = isbWord ∧ i = .isb) := by
  unfold decode at h
  split at h
  · obtain ⟨t, ht, hi⟩ := decodeOneReg_eq_ok h
    exact .inl ⟨_, t, ‹_›, ht, hi⟩
  · split at h
    · obtain ⟨t, t2, ht, ht2, hi, hw⟩ := decodeTwoReg_eq_ok h
      exact .inr (.inl ⟨_, t, t2, ‹_›, ht, ht2, hi, hi ▸ hw⟩)
    · split at h
      · cases h
        exact .inr (.inr ⟨‹_›, rfl⟩)
      · split at h <;> cases h

/-- A word is its bits under the mask of a one-register row and its `Rt` field (R81). -/
theorem word_of_oneReg_parts {u v : Word} (hm : u &&& oneRegMask = v &&& oneRegMask) (hr : rtField u = rtField v) :
    u = v := by
  apply BitVec.eq_of_getLsbD_eq
  intro i hi
  have h1 := congrArg (·.getLsbD i) hm
  have h2 := congrArg (·.getLsbD (i - 12)) hr
  simp only [BitVec.getLsbD_and, rtField, BitVec.getLsbD_extractLsb'] at h1 h2
  interval_cases i <;> simp [oneRegMask] at h1 h2 ⊢ <;> assumption

/-- A word is its bits under the mask of MCRR and MRRC and its `Rt` and `Rt2` fields (R85). -/
theorem word_of_twoReg_parts {u v : Word} (hm : u &&& twoRegMask = v &&& twoRegMask) (hr : rtField u = rtField v)
    (hr2 : rt2Field u = rt2Field v) : u = v := by
  apply BitVec.eq_of_getLsbD_eq
  intro i hi
  have h1 := congrArg (·.getLsbD i) hm
  have h2 := congrArg (·.getLsbD (i - 12)) hr
  have h3 := congrArg (·.getLsbD (i - 16)) hr2
  simp only [BitVec.getLsbD_and, rtField, rt2Field, BitVec.getLsbD_extractLsb'] at h1 h2 h3
  interval_cases i <;> simp [twoRegMask] at h1 h2 h3 ⊢ <;> assumption

/-- The opcode-table word is decoded as the 32-bit word it is. -/
theorem decodeTableWord_eq (nbits w : Nat) :
    decodeTableWord nbits w = (decode (tableWord nbits w)).toOption := by
  simp only [decodeTableWord, decodeBytes, Machine.wordOfBytes_byteOfWord]
  cases decode (tableWord nbits w) <;> rfl

end Sys2Proof
end

