-- ==== Sys2Proof/Laws/PerInstr.lean ====
section
/-! SUPPORT. Laws stated per instruction. Family `RowWord`: the encoder, written from the field layouts of R81 and R85,
gives a word that matches the row of R88 the instruction stands in, whatever its operands are. -/

namespace Sys2Proof.Laws.RowWord

/-- The `mask` and `match` of an instruction's row (spec/30_encoding.md R88). -/
def row : Instr → Word × Word
  | .ats1cpr _ => (0xFFFF0FFF#32, 0xEE070F18#32)
  | .ats1cpw _ => (0xFFFF0FFF#32, 0xEE070F38#32)
  | .ats1cur _ => (0xFFFF0FFF#32, 0xEE070F58#32)
  | .ats1cuw _ => (0xFFFF0FFF#32, 0xEE070F78#32)
  | .ats1cprp _ => (0xFFFF0FFF#32, 0xEE070F19#32)
  | .ats1cpwp _ => (0xFFFF0FFF#32, 0xEE070F39#32)
  | .ats12nsopr _ => (0xFFFF0FFF#32, 0xEE070F98#32)
  | .ats12nsopw _ => (0xFFFF0FFF#32, 0xEE070FB8#32)
  | .ats12nsour _ => (0xFFFF0FFF#32, 0xEE070FD8#32)
  | .ats12nsouw _ => (0xFFFF0FFF#32, 0xEE070FF8#32)
  | .ats1hr _ => (0xFFFF0FFF#32, 0xEE870F18#32)
  | .ats1hw _ => (0xFFFF0FFF#32, 0xEE870F38#32)
  | .parRead32 _ => (0xFFFF0FFF#32, 0xEE170F14#32)
  | .parWrite32 _ => (0xFFFF0FFF#32, 0xEE070F14#32)
  | .parRead64 _ _ => (0xFFF00FFF#32, 0xEC500F07#32)
  | .parWrite64 _ _ => (0xFFF00FFF#32, 0xEC400F07#32)
  | .isb => (0xFFFFFFFF#32, 0xF57FF06F#32)

/-- The word of the instruction matches its row: `(word & mask) == match`. -/
def Statement (i : Instr) : Prop := encode i &&& (row i).1 = (row i).2

theorem ats1cpr (t : Reg) : Statement (.ats1cpr t) := by unfold Statement; revert t; decide
theorem ats1cpw (t : Reg) : Statement (.ats1cpw t) := by unfold Statement; revert t; decide
theorem ats1cur (t : Reg) : Statement (.ats1cur t) := by unfold Statement; revert t; decide
theorem ats1cuw (t : Reg) : Statement (.ats1cuw t) := by unfold Statement; revert t; decide
theorem ats1cprp (t : Reg) : Statement (.ats1cprp t) := by unfold Statement; revert t; decide
theorem ats1cpwp (t : Reg) : Statement (.ats1cpwp t) := by unfold Statement; revert t; decide
theorem ats12nsopr (t : Reg) : Statement (.ats12nsopr t) := by unfold Statement; revert t; decide
theorem ats12nsopw (t : Reg) : Statement (.ats12nsopw t) := by unfold Statement; revert t; decide
theorem ats12nsour (t : Reg) : Statement (.ats12nsour t) := by unfold Statement; revert t; decide
theorem ats12nsouw (t : Reg) : Statement (.ats12nsouw t) := by unfold Statement; revert t; decide
theorem ats1hr (t : Reg) : Statement (.ats1hr t) := by unfold Statement; revert t; decide
theorem ats1hw (t : Reg) : Statement (.ats1hw t) := by unfold Statement; revert t; decide
theorem parRead32 (t : Reg) : Statement (.parRead32 t) := by unfold Statement; revert t; decide
theorem parWrite32 (t : Reg) : Statement (.parWrite32 t) := by unfold Statement; revert t; decide
theorem parRead64 (t t2 : Reg) : Statement (.parRead64 t t2) := by unfold Statement; revert t t2; decide
theorem parWrite64 (t t2 : Reg) : Statement (.parWrite64 t t2) := by unfold Statement; revert t t2; decide
theorem isb : Statement .isb := by unfold Statement; decide

end Sys2Proof.Laws.RowWord
end

