-- ==== Sys2Proof/Laws/Translation.lean ====
section
/-! SUPPORT. What the shared operations of the address translation instructions can do, said once each: the state a
reported result leaves, the frames of the exceptions, and the cases of `atExecute`. -/

namespace Sys2Proof.Machine

/-! ### Frames -/

theorem SameControl.refl (s : State) : SameControl s s := ⟨rfl, rfl, rfl, rfl, rfl, rfl, rfl, fun _ => rfl⟩

theorem SameControl.trans {s t u : State} (h : SameControl s t) (h' : SameControl t u) : SameControl s u :=
  ⟨h'.cfg.trans h.cfg, h'.mode.trans h.mode, h'.sec.trans h.sec, h'.pan.trans h.pan, h'.scrNS.trans h.scrNS,
    h'.ttbcrEAE.trans h.ttbcrEAE, h'.hcrVM.trans h.hcrVM, fun a => (h'.memory a).trans (h.memory a)⟩

theorem SameFaultRegisters.refl (s : State) : SameFaultRegisters s s := ⟨rfl, rfl, rfl, rfl, rfl⟩

theorem SameFaultRegisters.trans {s t u : State} (h : SameFaultRegisters s t) (h' : SameFaultRegisters t u) :
    SameFaultRegisters s u :=
  ⟨h'.hsr.trans h.hsr, h'.hpfar.trans h.hpfar, h'.hdfar.trans h.hdfar, h'.dfsr.trans h.dfsr, h'.dfar.trans h.dfar⟩

/-! ### Results -/

/-- Writing a result changes one instance of PAR and the draw counter only (R189). -/
@[simp] theorem writeResult_fields (i : Bank) (f : ParFmt) (r : ParResult) (s : State) :
    (writeResult i f r s).cfg = s.cfg ∧ (writeResult i f r s).x = s.x ∧ (writeResult i f r s).pc = s.pc ∧
    (writeResult i f r s).pan = s.pan ∧ (writeResult i f r s).mode = s.mode ∧ (writeResult i f r s).sec = s.sec ∧
    (writeResult i f r s).par.get i.other = s.par.get i.other ∧ (writeResult i f r s).parDirty = s.parDirty ∧
    (writeResult i f r s).scrNS = s.scrNS ∧ (writeResult i f r s).ttbcrEAE = s.ttbcrEAE ∧
    (writeResult i f r s).hcrVM = s.hcrVM ∧ (writeResult i f r s).hsr = s.hsr ∧ (writeResult i f r s).hpfar = s.hpfar ∧
    (writeResult i f r s).hdfar = s.hdfar ∧ (writeResult i f r s).dfsr = s.dfsr ∧ (writeResult i f r s).dfar = s.dfar ∧
    (writeResult i f r s).mem = s.mem ∧ (writeResult i f r s).ended = s.ended ∧
    (writeResult i f r s).answers = s.answers := by
  cases f <;> simp [writeResult]

/-- A 64-bit format result is the packed result (R189). -/
theorem writeResult_f64 (i : Bank) (r : ParResult) (s : State) :
    (writeResult i .f64 r s).par.get i = packPAR64 s.cfg r := by
  simp [writeResult]

/-- Bits [63:32] after a 32-bit format result are a draw (R189, decision D7). -/
theorem writeResult_f32_high (i : Bank) (r : ParResult) (s : State) :
    ((writeResult i .f32 r s).par.get i).high = Config.unknown 32 (afterLow32 r s).draws := by
  have h : (writeResult i .f32 r s).par.get i = (Config.unknown 32 (afterLow32 r s).draws ++ low32 r s : BitVec (32 + 32)) := by
    simp [writeResult, State.unknown]
  rw [h]
  exact BitVec.extractLsb'_append_eq_left

/-- Bits [31:0] after a 32-bit format result (R189). -/
theorem writeResult_f32_low (i : Bank) (r : ParResult) (s : State) :
    ((writeResult i .f32 r s).par.get i).low = low32 r s := by
  have h : (writeResult i .f32 r s).par.get i = (Config.unknown 32 (afterLow32 r s).draws ++ low32 r s : BitVec (32 + 32)) := by
    simp [writeResult, State.unknown]
  rw [h]
  exact BitVec.extractLsb'_append_eq_right

/-- `MarkDirty` as a flag of its instance: pending before, or made so (R212). -/
theorem markDirty_get (s : State) (i : Bank) :
    (s.markDirty i).parDirty.get i = (s.parDirty.get i || decide (s.cfg.parSync = .needsContextSync)) := by
  by_cases h : s.cfg.parSync = .needsContextSync <;> simp [h]

theorem markDirty_get_other (s : State) (i : Bank) : (s.markDirty i).parDirty.get i.other = s.parDirty.get i.other := by
  by_cases h : s.cfg.parSync = .needsContextSync <;> simp [h]

/-- The state a result leaves behind when the instruction completes (R110). -/
def reportedState (i : Bank) (f : ParFmt) (r : ParResult) (s : State) : State :=
  { (writeResult i f r s).markDirty i with pc := s.pc + 4 }

theorem reportInPar_of_no_wrap (i : Bank) (f : ParFmt) (r : ParResult) (s : State)
    (h : s.pc.toNat + 4 < addressSpace) : reportInPar i f r s = .next (reportedState i f r s) := by
  have : ((writeResult i f r s).markDirty i).pc.toNat + 4 < addressSpace := by simpa using h
  rw [reportInPar, State.complete_of_no_wrap _ this]
  simp [reportedState]

theorem reportInPar_eq_next {i : Bank} {f : ParFmt} {r : ParResult} {s t : State} (h : reportInPar i f r s = .next t) :
    s.pc.toNat + 4 < addressSpace ∧ t = reportedState i f r s := by
  obtain ⟨hp, ht⟩ := State.complete_eq_next h
  exact ⟨by simpa using hp, by simp [ht, reportedState]⟩

/-- The frame of a reported result. -/
theorem reportedState_frame (i : Bank) (f : ParFmt) (r : ParResult) (s : State) :
    ReportFrame s (reportedState i f r s) i where
  control := by constructor <;> simp [reportedState]
  faultRegisters := by constructor <;> simp [reportedState]
  par := by
    constructor
    · simp [reportedState]
    · exact (markDirty_get_other _ i).trans (by simp)
    · exact (markDirty_get _ i).trans (by simp)
  x := by simp [reportedState]
  pc := rfl
  ended := by simp [reportedState]

/-- What a reported result leaves in PAR. -/
theorem reportedState_holds (i : Bank) (f : ParFmt) (r : ParResult) (s : State) :
    HoldsResult s (reportedState i f r s) i r f := by
  have h : (reportedState i f r s).par = (writeResult i f r s).par := by simp [reportedState]
  cases f
  · refine ⟨⟨_, by rw [h]; exact writeResult_f32_high i r s⟩, fun hf => ?_, fun hf => ⟨s.draws, ?_⟩⟩ <;>
      rw [h, writeResult_f32_low, low32, hf] <;> rfl
  · exact (congrArg (·.get i) h).trans (writeResult_f64 i r s)

/-! ### The supersection form -/

/-- The address that GK4's supersection form shows where the page address stands: PA[31:24] in bits [31:24], PA[39:32] in
bits [23:16] (spec/93_implementation_defined.md GK4). -/
def supersectionAddr (oa : OutAddr) (a : Attrs) : OutAddr :=
  if a.short.ss = 1 then field 40 24 (oa.extractLsb' 24 8) ||| field 40 16 (oa.extractLsb' 32 8) else oa

/-- The general-knowledge layouts with GK4's supersection form. GK4 says nothing of bits [15:12] there; in this example
they are 0. -/
def gkSupersectionPacking : Packing where
  pack32
    | .ok oa a => gkPack32 (.ok (supersectionAddr oa a) a)
    | .fault st w code => gkPack32 (.fault st w code)
  pack64 := gkPack64

theorem supersectionAddr_top (oa : OutAddr) (a : Attrs) :
    (supersectionAddr oa a).extractLsb' 24 8 = oa.extractLsb' 24 8 := by
  unfold supersectionAddr
  split
  · apply BitVec.eq_of_getLsbD_eq
    intro i hi
    simp only [BitVec.getLsbD_extractLsb', BitVec.getLsbD_or, field_getLsbD]
    simp [hi, show 24 + i < 40 by omega, show ¬ 24 + i - 16 < 8 by omega]
  · rfl

/-- It satisfies R190, so it is among the packings that `PackChoice.other` ranges over. -/
theorem gkSupersectionPacking_lawful : gkSupersectionPacking.Lawful where
  fault_ne_ok32 st w c oa a := gkPacking_lawful.fault_ne_ok32 st w c (supersectionAddr oa a) a
  fault_ne_ok64 := gkPacking_lawful.fault_ne_ok64
  top32 oa a oa' a' h := by
    simpa only [supersectionAddr_top] using top_of_page (gkPack32_page_inj h)
  page32 oa a oa' a' h hs hs' := by
    simpa [supersectionAddr, hs, hs'] using gkPack32_page_inj h
  page64 := gkPacking_lawful.page64

/-! ### Exceptions -/

/-- What every exception of an address translation instruction leaves of the state it started from: PAR's instance is a
draw, the control state, the general registers and `pc` are unchanged, and the record names the instruction. -/
structure AbortFrame (s t : State) (i : Bank) (kind : ExceptionKind) (target : ExceptionTarget) (adv : Bool) : Prop where
  control : SameControl s t
  par : WritesOnePar s t i
  unknown : ∃ n, t.par.get i = Config.unknown 64 n
  x : t.x = s.x
  pc : t.pc = s.pc
  ended : t.ended = some ⟨kind, target, s.pc, adv⟩

/-- `PAR[i] <- UNKNOWN(64); MarkDirty(i)` (R211, R212). -/
theorem unknownPar_markDirty_frame (s : State) (i : Bank) :
    WritesOnePar s ((s.unknownPar i).markDirty i) i where
  otherPar := by simp
  otherDirty := (markDirty_get_other _ i).trans (by simp)
  dirty := (markDirty_get _ i).trans (by simp)

/-- The frame of an exception that is raised after `PAR[i] <- UNKNOWN(64); MarkDirty(i)` and after writes that leave PAR,
its flags, the control state and the general registers alone. -/
theorem AbortFrame.of_unknownPar {s t : State} {i : Bank} {kind : ExceptionKind} {target : ExceptionTarget}
    {adv : Bool} (hc : SameControl ((s.unknownPar i).markDirty i) t) (hp : t.par = ((s.unknownPar i).markDirty i).par)
    (hd : t.parDirty = ((s.unknownPar i).markDirty i).parDirty) (hx : t.x = ((s.unknownPar i).markDirty i).x)
    (hpc : t.pc = ((s.unknownPar i).markDirty i).pc) (he : t.ended = some ⟨kind, target, t.pc, adv⟩) :
    AbortFrame s t i kind target adv := by
  obtain ⟨h1, h2, h3⟩ := unknownPar_markDirty_frame s i
  have hc0 : SameControl s ((s.unknownPar i).markDirty i) := by constructor <;> simp
  have hp' : t.pc = s.pc := hpc.trans (by simp)
  exact ⟨hc0.trans hc, ⟨hp ▸ h1, hd ▸ h2, hd ▸ h3⟩, ⟨s.draws, by rw [hp]; simp⟩, hx.trans (by simp), hp', hp' ▸ he⟩

theorem hypTrapOnAT_spec (va : Word) (i : Bank) (ipa : OutAddr) (s : State) :
    ∃ t, hypTrapOnAT va i ipa s = .next t ∧ AbortFrame s t i .hypTrap .hypMode false ∧
      t.hsr.walk = true ∧ t.hsr.cm = true ∧ t.hpfar = ipa ∧ t.hdfar = va ∧ t.dfsr = s.dfsr ∧ t.dfar = s.dfar ∧
      t.answers = s.answers := by
  refine ⟨_, rfl, AbortFrame.of_unknownPar ?_ ?_ ?_ ?_ ?_ rfl, ?_⟩
  · constructor <;> simp
  all_goals simp

/-- What recording a synchronous External abort can change (R205). -/
theorem recordSyncAbort_frame (va : Word) (route : AbortRoute) (s : State) :
    SameControl s (recordSyncAbort va route s) ∧ (recordSyncAbort va route s).par = s.par ∧
      (recordSyncAbort va route s).parDirty = s.parDirty ∧ (recordSyncAbort va route s).x = s.x ∧
      (recordSyncAbort va route s).pc = s.pc ∧ (recordSyncAbort va route s).hpfar = s.hpfar ∧
      (recordSyncAbort va route s).answers = s.answers := by
  cases route <;> exact ⟨by constructor <;> simp [recordSyncAbort], by simp [recordSyncAbort]⟩

/-- What recording an asynchronous External abort can change (R206). -/
theorem recordAsyncAbort_frame (route : AbortRoute) (s : State) :
    SameControl s (recordAsyncAbort route s) ∧ (recordAsyncAbort route s).par = s.par ∧
      (recordAsyncAbort route s).parDirty = s.parDirty ∧ (recordAsyncAbort route s).x = s.x ∧
      (recordAsyncAbort route s).pc = s.pc ∧ (recordAsyncAbort route s).hpfar = s.hpfar ∧
      (recordAsyncAbort route s).hdfar = s.hdfar ∧ (recordAsyncAbort route s).dfar = s.dfar ∧
      (recordAsyncAbort route s).answers = s.answers := by
  cases route <;> exact ⟨by constructor <;> simp [recordAsyncAbort], by simp [recordAsyncAbort]⟩

/-- The state `SyncAbortOnAT` leaves. -/
def syncAbortState (va : Word) (i : Bank) (s : State) : State :=
  let s1 := recordSyncAbort va s.cfg.syncRoute ((s.unknownPar i).markDirty i)
  { s1 with ended := some ⟨.dataAbort .sync, .routed s.cfg.syncRoute, s1.pc, false⟩ }

theorem syncAbortOnAT_eq (va : Word) (i : Bank) (s : State) : syncAbortOnAT va i s = .next (syncAbortState va i s) := rfl

theorem syncAbortState_frame (va : Word) (i : Bank) (s : State) :
    AbortFrame s (syncAbortState va i s) i (.dataAbort .sync) (.routed s.cfg.syncRoute) false ∧
      (syncAbortState va i s).hpfar = s.hpfar ∧
      (syncAbortState va i s).answers = s.answers := by
  obtain ⟨⟨h1, h2, h3, h4, h5, h6, h7, h8⟩, hp, hd, hx, hpc, hf, ha⟩ :=
    recordSyncAbort_frame va s.cfg.syncRoute ((s.unknownPar i).markDirty i)
  exact ⟨AbortFrame.of_unknownPar ⟨h1, h2, h3, h4, h5, h6, h7, h8⟩ hp hd hx hpc rfl,
    hf.trans (by simp), ha.trans (by simp)⟩

/-- The state `AsyncAbortOnAT` leaves. -/
def asyncAbortState (i : Bank) (s : State) : State :=
  let s1 := recordAsyncAbort s.cfg.asyncRoute ((s.unknownPar i).markDirty i)
  { s1.drew with ended := some ⟨.dataAbort .async, .routed s.cfg.asyncRoute, s1.pc, s1.unknownBool⟩ }

theorem asyncAbortOnAT_eq (i : Bank) (s : State) : asyncAbortOnAT i s = .next (asyncAbortState i s) := rfl

theorem asyncAbortState_frame (i : Bank) (s : State) :
    (∃ n, AbortFrame s (asyncAbortState i s) i (.dataAbort .async) (.routed s.cfg.asyncRoute)
      (Config.unknown 1 n == 1)) ∧
      (asyncAbortState i s).hpfar = s.hpfar ∧ (asyncAbortState i s).hdfar = s.hdfar ∧
      (asyncAbortState i s).dfar = s.dfar ∧ (asyncAbortState i s).answers = s.answers := by
  obtain ⟨⟨h1, h2, h3, h4, h5, h6, h7, h8⟩, hp, hd, hx, hpc, hf, hh, hfa, ha⟩ :=
    recordAsyncAbort_frame s.cfg.asyncRoute ((s.unknownPar i).markDirty i)
  exact ⟨⟨_, AbortFrame.of_unknownPar ⟨h1, h2, h3, h4, h5, h6, h7, h8⟩ hp hd hx hpc rfl⟩, hf.trans (by simp),
    hh.trans (by simp), hfa.trans (by simp), ha.trans (by simp)⟩

/-! ### The template -/

/-- Asking the oracle changes nothing a claim is about. -/
theorem asked_control (s : State) : SameControl s s.asked := by constructor <;> simp

/-- Each address translation instruction is the template on the operation record of its name (R101, R102). -/
theorem exec_of_atForm {i : Instr} {op : ATOp} {t : Reg} (h : atForm i = some (op, t)) (s : State) :
    exec i s = atExecute op t s := by
  cases i <;> simp only [atForm, Option.some.injEq, Prod.mk.injEq, reduceCtorEq] at h <;>
    obtain ⟨rfl, rfl⟩ := h <;> rfl

/-- Everything `completeAT` can do. -/
theorem completeAT_eq_next {va : Word} {f : ParFmt} {i : Bank} {ans : ATAnswer} {s t : State}
    (h : completeAT va f i ans s = .next t) :
    (∃ r, s.pc.toNat + 4 < addressSpace ∧ t = reportedState i f r s) ∨
    (∃ w c ipa, NonSecurePL1 s ∧ ans = .fault .two w c ipa ∧ hypTrapOnAT va i ipa s = .next t) ∨
    (ans = .syncExternalAbort ∧ t = syncAbortState va i s) ∨
    (ans = .asyncExternalAbort ∧ t = asyncAbortState i s) := by
  cases ans with
  | ok oa a => exact .inl ⟨_, reportInPar_eq_next h⟩
  | fault st w c ipa =>
    simp only [completeAT] at h
    split at h
    · obtain ⟨hn, rfl⟩ := ‹_ ∧ st = Stage.two›
      exact .inr (.inl ⟨w, c, ipa, hn, rfl, h⟩)
    · exact .inl ⟨_, reportInPar_eq_next h⟩
  | syncExternalAbort =>
    cases (syncAbortOnAT_eq va i s).symm.trans h
    exact .inr (.inr (.inl ⟨rfl, rfl⟩))
  | asyncExternalAbort =>
    cases (asyncAbortOnAT_eq i s).symm.trans h
    exact .inr (.inr (.inr ⟨rfl, rfl⟩))

/-- Everything `atExecute` can answer with a next state: UNDEFINED, the trap to EL3, or the completion of a translation
whose answer is well formed (R102). -/
theorem atExecute_eq_next {op : ATOp} {r : Reg} {s t : State} (h : atExecute op r s = .next t) :
    (avail op s = .undefined ∧ t = { s with ended := some ⟨.undefinedInstruction, .notInSource, s.pc, false⟩ }) ∨
    (avail op s = .trapToEL3 ∧ t = { s with ended := some ⟨.trapToEL3 op, .el3, s.pc, false⟩ }) ∨
    (avail op s = .execute ∧
      wellFormedAnswer s.cfg (request op (s.readX r) s) (s.answer (request op (s.readX r) s)) = true ∧
      completeAT (s.readX r) (format op s) (resultBank op s) (s.answer (request op (s.readX r) s)) s.asked = .next t) := by
  unfold atExecute at h
  split at h
  · cases h; exact .inl ⟨‹_›, rfl⟩
  · cases h; exact .inr (.inl ⟨‹_›, rfl⟩)
  · cases h
  · refine .inr (.inr ⟨‹_›, ?_⟩)
    simp only [translate] at h
    split at h
    · exact ⟨‹_›, h⟩
    · cases h

/-- An instruction that is available completes with the oracle's answer (R102). -/
theorem atExecute_of_execute {op : ATOp} {r : Reg} {s : State} (h : avail op s = .execute)
    (hw : wellFormedAnswer s.cfg (request op (s.readX r) s) (s.answer (request op (s.readX r) s)) = true) :
    atExecute op r s =
      completeAT (s.readX r) (format op s) (resultBank op s) (s.answer (request op (s.readX r) s)) s.asked := by
  simp [atExecute, h, translate, hw]

/-- Where an ATS1C** instruction executes in Non-secure PL1, no other family does (R103 cases (8), (13)). -/
theorem family_of_execute_nonSecurePL1 {op : ATOp} {s : State} (h : avail op s = .execute) (hn : NonSecurePL1 s)
    (hm : ¬ InMonitor s) : op.family = .ats1c := by
  obtain ⟨hs, h0, hh⟩ := hn
  unfold avail at h
  have ns : ¬ SecurePL1 s := fun hp => SecState.noConfusion (hs.symm.trans hp.1)
  cases hf : op.family with
  | ats1c => rfl
  | ats12nso =>
    simp only [hf, h0, if_false, availAts12nso, ns, false_and, hh] at h
    split at h <;> cases h
  | ats1h =>
    simp only [hf, h0, if_false, availAts1h, ns, hh, hm] at h
    split at h <;> cases h

end Sys2Proof.Machine
end

