-- ==== Sys2Proof/Laws/Step.lean ====
section
/-! SUPPORT. Everything a fetch and a step can do. -/

namespace Sys2Proof.Machine

/-! ### What an instruction can do -/

/-- Frames reach over the oracle's being asked. -/
theorem ReportFrame.of_asked {s t : State} {i : Bank} (h : ReportFrame s.asked t i) : ReportFrame s t i := by
  obtain ⟨⟨_, _, _, _, _, _, _, _⟩, ⟨_, _, _, _, _⟩, ⟨_, _, _⟩, _, _, _⟩ := h
  constructor
  · constructor <;> simp_all
  · constructor <;> simp_all
  · constructor <;> simp_all
  all_goals simp_all

theorem AbortFrame.of_asked {s t : State} {i : Bank} {k : ExceptionKind} {g : ExceptionTarget} {adv : Bool}
    (h : AbortFrame s.asked t i k g adv) : AbortFrame s t i k g adv := by
  obtain ⟨⟨_, _, _, _, _, _, _, _⟩, ⟨_, _, _⟩, _, _, _, _⟩ := h
  constructor
  · constructor <;> simp_all
  · constructor <;> simp_all
  all_goals simp_all

theorem HoldsResult.of_asked {s t : State} {i : Bank} {r : ParResult} {f : ParFmt} (h : HoldsResult s.asked t i r f) :
    HoldsResult s t i r f := by
  cases f <;> simpa [HoldsResult] using h

/-- Everything a translation can leave that the oracle has answered: a result reported in PAR, or an exception (R201). -/
theorem completeAT_asked_eq_next {va : Word} {f : ParFmt} {i : Bank} {ans : ATAnswer} {s t : State}
    (h : completeAT va f i ans s.asked = .next t) :
    (s.pc.toNat + 4 < addressSpace ∧ ReportFrame s t i ∧ ∃ r, HoldsResult s t i r f) ∨
    (NonSecurePL1 s ∧ AbortFrame s t i .hypTrap .hypMode false) ∨
    (AbortFrame s t i (.dataAbort .sync) (.routed s.cfg.syncRoute) false ∧ t.hpfar = s.hpfar) ∨
    (∃ n, AbortFrame s t i (.dataAbort .async) (.routed s.cfg.asyncRoute) (Config.unknown 1 n == 1) ∧
      t.hpfar = s.hpfar) := by
  rcases completeAT_eq_next h with ⟨r, hp, rfl⟩ | ⟨w, c, ipa, hn, -, h⟩ | ⟨-, rfl⟩ | ⟨-, rfl⟩
  · exact .inl ⟨by simpa using hp, (reportedState_frame i f r s.asked).of_asked, r,
      (reportedState_holds i f r s.asked).of_asked⟩
  · obtain ⟨t', h1, h2, -⟩ := hypTrapOnAT_spec va i ipa s.asked
    cases h1.symm.trans h
    exact .inr (.inl ⟨by simpa [NonSecurePL1, AtEL0, InHyp] using hn, h2.of_asked⟩)
  · obtain ⟨h1, h2, -⟩ := syncAbortState_frame va i s.asked
    exact .inr (.inr (.inl ⟨by simpa using h1.of_asked, by simpa using h2⟩))
  · obtain ⟨⟨n, h1⟩, h2, -⟩ := asyncAbortState_frame i s.asked
    exact .inr (.inr (.inr ⟨n, by simpa using h1.of_asked, by simpa using h2⟩))

/-- Everything a direct access to PAR or an ISB can do: raise the Undefined Instruction exception in User mode, or complete
(R170 to R173, R176). -/
theorem access_eq_next {i : Instr} {s t : State} (hi : atForm i = none) (h : exec i s = .next t) :
    (AtEL0 s ∧ t = { s with ended := some ⟨.undefinedInstruction, .notInSource, s.pc, false⟩ }) ∨
    (s.pc.toNat + 4 < addressSpace ∧ AccessFrame s t ∧
      ((¬ AtEL0 s ∧ t.par = s.par ∧ t.parDirty = s.parDirty ∧ ((∃ r, i = .parRead32 r ∧ t.x = s.x.set r.val (s.readPar (accessedBank s)).low) ∨
          (∃ r r2, i = .parRead64 r r2 ∧ t.x =
            (s.x.set r.val (s.readPar (accessedBank s)).low).set r2.val (s.readPar (accessedBank s)).high))) ∨
        (¬ AtEL0 s ∧ t.x = s.x ∧ t.parDirty = s.parDirty ∧ ∃ v, t.par = s.par.set (accessedBank s) v) ∨
        (i = .isb ∧ t.x = s.x ∧ t.par = s.par ∧ t.parDirty = ⟨false, false⟩))) := by
  cases i with
  | parRead32 r =>
    simp only [exec, execParRead32] at h
    split at h
    · cases h; exact .inl ⟨‹_›, rfl⟩
    · obtain ⟨hp, rfl⟩ := State.complete_eq_next h
      exact .inr ⟨by simpa using hp, ⟨by constructor <;> simp, by constructor <;> simp, by simp, by simp⟩,
        .inl ⟨‹_›, by simp, by simp, .inl ⟨r, rfl, by simp⟩⟩⟩
  | parWrite32 r =>
    simp only [exec, execParWrite32] at h
    split at h
    · cases h; exact .inl ⟨‹_›, rfl⟩
    · obtain ⟨hp, rfl⟩ := State.complete_eq_next h
      exact .inr ⟨by simpa using hp, ⟨by constructor <;> simp, by constructor <;> simp, by simp, by simp⟩,
        .inr (.inl ⟨‹_›, by simp, by simp, _, by simp; rfl⟩)⟩
  | parRead64 r r2 =>
    simp only [exec, execParRead64] at h
    split at h
    · cases h
    · split at h
      · cases h; exact .inl ⟨‹_›, rfl⟩
      · obtain ⟨hp, rfl⟩ := State.complete_eq_next h
        exact .inr ⟨by simpa using hp, ⟨by constructor <;> simp, by constructor <;> simp, by simp, by simp⟩,
          .inl ⟨‹_›, by simp, by simp, .inr ⟨r, r2, rfl, by simp⟩⟩⟩
  | parWrite64 r r2 =>
    simp only [exec, execParWrite64] at h
    split at h
    · cases h; exact .inl ⟨‹_›, rfl⟩
    · obtain ⟨hp, rfl⟩ := State.complete_eq_next h
      exact .inr ⟨by simpa using hp, ⟨by constructor <;> simp, by constructor <;> simp, by simp, by simp⟩,
        .inr (.inl ⟨‹_›, by simp, by simp, _, by simp; rfl⟩)⟩
  | isb =>
    obtain ⟨hp, rfl⟩ := State.complete_eq_next h
    exact .inr ⟨by simpa using hp, ⟨by constructor <;> simp, by constructor <;> simp, by simp, by simp⟩,
      .inr (.inr ⟨rfl, by simp, by simp, by simp⟩)⟩
  | _ => simp [atForm] at hi

/-- Everything an address translation instruction can do (R102). -/
theorem at_eq_next {i : Instr} {op : ATOp} {r : Reg} {s t : State} (hi : atForm i = some (op, r))
    (h : exec i s = .next t) :
    (avail op s = .undefined ∧ t = { s with ended := some ⟨.undefinedInstruction, .notInSource, s.pc, false⟩ }) ∨
    (avail op s = .trapToEL3 ∧ t = { s with ended := some ⟨.trapToEL3 op, .el3, s.pc, false⟩ }) ∨
    (avail op s = .execute ∧
      ((s.pc.toNat + 4 < addressSpace ∧ ReportFrame s t (resultBank op s) ∧
          ∃ res, HoldsResult s t (resultBank op s) res (format op s)) ∨
        (NonSecurePL1 s ∧ AbortFrame s t (resultBank op s) .hypTrap .hypMode false) ∨
        (AbortFrame s t (resultBank op s) (.dataAbort .sync) (.routed s.cfg.syncRoute) false ∧ t.hpfar = s.hpfar) ∨
        (∃ n, AbortFrame s t (resultBank op s) (.dataAbort .async) (.routed s.cfg.asyncRoute) (Config.unknown 1 n == 1) ∧
          t.hpfar = s.hpfar))) := by
  rw [exec_of_atForm hi] at h
  rcases atExecute_eq_next h with h | h | ⟨h1, -, h2⟩
  · exact .inl h
  · exact .inr (.inl h)
  · exact .inr (.inr ⟨h1, completeAT_asked_eq_next h2⟩)

/-- No instruction changes memory (R62). -/
theorem exec_mem {i : Instr} {s t : State} (h : exec i s = .next t) : t.mem = s.mem := by
  cases hi : atForm i with
  | none =>
    cases i with
    | parRead32 r =>
      simp only [exec, execParRead32] at h
      split at h
      · cases h; rfl
      · obtain ⟨-, rfl⟩ := State.complete_eq_next h; simp
    | parWrite32 r =>
      simp only [exec, execParWrite32] at h
      split at h
      · cases h; rfl
      · obtain ⟨-, rfl⟩ := State.complete_eq_next h; simp
    | parRead64 r r2 =>
      simp only [exec, execParRead64] at h
      split at h
      · cases h
      · split at h
        · cases h; rfl
        · obtain ⟨-, rfl⟩ := State.complete_eq_next h; simp
    | parWrite64 r r2 =>
      simp only [exec, execParWrite64] at h
      split at h
      · cases h; rfl
      · obtain ⟨-, rfl⟩ := State.complete_eq_next h; simp
    | isb => obtain ⟨-, rfl⟩ := State.complete_eq_next h; simp
    | _ => simp [atForm] at hi
  | some p =>
    rw [exec_of_atForm hi] at h
    rcases atExecute_eq_next h with ⟨-, rfl⟩ | ⟨-, rfl⟩ | ⟨-, -, h⟩
    · rfl
    · rfl
    · rcases completeAT_eq_next h with ⟨r, -, rfl⟩ | ⟨w, c, ipa, -, -, h⟩ | ⟨-, rfl⟩ | ⟨-, rfl⟩
      · simp [reportedState]
      · cases h; simp
      · simp only [syncAbortState]; cases s.asked.cfg.syncRoute <;> simp [recordSyncAbort]
      · simp only [asyncAbortState]; cases s.asked.cfg.asyncRoute <;> simp [recordAsyncAbort]

/-! ### The step -/

/-- When a fetch answers an instruction. -/
theorem fetch_eq_next {s : State} {i : Instr} (h : fetch s = .next i) :
    s.ended = none ∧ Admitted s ∧ s.pc.toNat % 4 = 0 ∧ ∃ w, s.mem.word s.pc = some w ∧ decode w = .ok i := by
  unfold fetch at h
  split at h
  · cases h
  · split at h
    · cases h
    · split at h
      · cases h
      · split at h
        · cases h
        · split at h
          · cases h
          · cases h
            exact ⟨‹_›, Decidable.not_not.mp ‹_›, Decidable.not_not.mp ‹_›, _, ‹_›, ‹_›⟩

theorem fetch_of_word {s : State} {w : Word} {i : Instr} (he : s.ended = none) (ha : Admitted s)
    (hp : s.pc.toNat % 4 = 0) (hw : s.mem.word s.pc = some w) (hd : decode w = .ok i) : fetch s = .next i := by
  simp only [fetch, he]
  rw [if_neg (not_not_intro ha), if_neg (not_not_intro hp)]
  simp only [hw, hd]

/-- A step that answers a next state has executed an instruction. -/
theorem step_eq_next {s t : State} (h : step s = .next t) : ∃ i, fetch s = .next i ∧ exec i s = .next t := by
  unfold step at h
  split at h
  · exact ⟨_, ‹_›, h⟩
  · cases h
  · cases h

theorem step_of_fetch {s : State} {i : Instr} (h : fetch s = .next i) : step s = exec i s := by
  simp [step, h]

end Sys2Proof.Machine
end

