-- ==== Sys2Proof/Tests/Slice0.lean ====
section
/-! SUPPORT. The model's own tests. Every expected value is taken from spec/95_test_vectors.md (the vector is named) or from
the words of spec/30_encoding.md R88, none from the model. After them, a witness for the hypotheses of each statement of
Sys2Proof/Certificates/Slice0/Obligations.lean, clause by clause. -/

namespace Sys2Proof.Tests

open Sys2Proof.Machine

/-! ### Well-formedness -/

/-- The one ill-formed term there is: MRRC with `t == t2` (R85). -/
theorem test_wellFormed_refuses_mrrc_same_register : Instr.wellFormed (.parRead64 0 0) = false := by decide

/-- MCRR with `t == t2` is admitted (R173). -/
theorem test_wellFormed_admits_mcrr_same_register : Instr.wellFormed (.parWrite64 14 14) = true := by decide

/-- The check is the decoder's: the word of the ill-formed term is refused (95 section 2, word 0xEC500F07). -/
theorem test_decoder_refuses_mrrc_same_register : decode 0xEC500F07#32 = .error .rtEqualsRt2 := by decide

/-! ### Decoding: the words of spec/95_test_vectors.md section 2 -/

theorem test_decode_ats1cpr : decode 0xEE070F18#32 = .ok (.ats1cpr 0) := by decide
theorem test_decode_ats1cpw : decode 0xEE073F38#32 = .ok (.ats1cpw 3) := by decide
theorem test_decode_ats1cur : decode 0xEE07EF58#32 = .ok (.ats1cur 14) := by decide
theorem test_decode_ats1cuw : decode 0xEE070F78#32 = .ok (.ats1cuw 0) := by decide
theorem test_decode_ats1cprp : decode 0xEE073F19#32 = .ok (.ats1cprp 3) := by decide
theorem test_decode_ats1cpwp : decode 0xEE070F39#32 = .ok (.ats1cpwp 0) := by decide
theorem test_decode_ats12nsopr : decode 0xEE070F98#32 = .ok (.ats12nsopr 0) := by decide
theorem test_decode_ats12nsopw : decode 0xEE073FB8#32 = .ok (.ats12nsopw 3) := by decide
theorem test_decode_ats12nsour : decode 0xEE070FD8#32 = .ok (.ats12nsour 0) := by decide
theorem test_decode_ats12nsouw : decode 0xEE07EFF8#32 = .ok (.ats12nsouw 14) := by decide
theorem test_decode_ats1hr : decode 0xEE870F18#32 = .ok (.ats1hr 0) := by decide
theorem test_decode_ats1hw : decode 0xEE873F38#32 = .ok (.ats1hw 3) := by decide
theorem test_decode_parRead32 : decode 0xEE172F14#32 = .ok (.parRead32 2) := by decide
theorem test_decode_parWrite32 : decode 0xEE070F14#32 = .ok (.parWrite32 0) := by decide
theorem test_decode_parRead64 : decode 0xEC554F07#32 = .ok (.parRead64 4 5) := by decide
theorem test_decode_parWrite64 : decode 0xEC432F07#32 = .ok (.parWrite64 2 3) := by decide
theorem test_decode_isb : decode 0xF57FF06F#32 = .ok .isb := by decide

/-- R88's worked derivation of one word, field by field: `cond`, bits 27:24, `opc1`, `L`, `CRn`, `Rt`, `coproc`, `opc2`, bit
4, `CRm`. -/
theorem test_word_ats1cpr_by_fields :
    (0b1110#4 ++ 0b1110#4 ++ 0b000#3 ++ 0b0#1 ++ 0b0111#4 ++ 0b0000#4 ++ 0b1111#4 ++ 0b000#3 ++ 0b1#1 ++ 0b1000#4 : Word) =
      0xEE070F18#32 := by decide

/-- The refused words of spec/95_test_vectors.md section 2. -/
theorem test_decode_refuses :
    decode 0x0E070F18#32 = .error .conditionNotAlways ∧ decode 0xEE07FF18#32 = .error .rtIsFifteen ∧
    decode 0xEE070F59#32 = .error .noRow ∧ decode 0xEE870F58#32 = .error .noRow ∧
    decode 0xEE170F18#32 = .error .noRow ∧ decode 0xEC5F0F07#32 = .error .rt2IsFifteen ∧
    decode 0xEC510F17#32 = .error .noRow := by decide

/-- Bytes are read least significant first (R63), and what follows the word is left (R92). -/
theorem test_decodeBytes : decodeBytes [0x18, 0x0F, 0x07, 0xEE, 0xAA] = .ok (.ats1cpr 0, [0xAA]) := by decide

theorem test_decodeBytes_truncated : decodeBytes [0x18, 0x0F, 0x07] = .error .truncated := by decide

theorem test_decodeTableWord : decodeTableWord 32 0xEE070F18 = some (.ats1cpr 0) := by decide

/-! ### States -/

/-- A configuration of spec/95_test_vectors.md, with both abort routes. -/
def config (el2 el3 el3A32 : Bool) (route : AbortRoute) : Cfg :=
  { resetCfg with haveEL2 := el2, haveEL3 := el3, el3IsAArch32 := el3A32, syncRoute := route, asyncRoute := route }

def k1 (route : AbortRoute) : Cfg := config false false false route
def k2 (route : AbortRoute) : Cfg := config true false false route
def k3 (route : AbortRoute) : Cfg := config false true true route
def k4 (route : AbortRoute) : Cfg := config true true true route
def k5 (route : AbortRoute) : Cfg := config false true false route
def k6 (route : AbortRoute) : Cfg := config true true false route

/-- A state of spec/95_test_vectors.md section 4: every register holds `0x00012345`, and `pc` is the highest address an
instruction can complete from. -/
def start (c : Cfg) (m : Mode) (sec : SecState) (answers : List ATAnswer) : State :=
  { State.reset with
    cfg := c, mode := m, sec := sec, scrNS := if sec = .nonSecure then 1 else 0, pc := 0xFFFFFFF8,
    x := Vector.replicate 15 0x00012345, answers := answers }

/-- `attrs32` and `attrs64` of spec/95_test_vectors.md section 5. -/
def attrs32 : Attrs := ⟨⟨0, 1, 0, 1, 7, 3, 0⟩, ⟨0, 0, 0, 0⟩, 0⟩
def attrs64 : Attrs := ⟨⟨0, 0, 0, 0, 0, 0, 0⟩, ⟨0xFF, 0, 1, 3⟩, 0⟩

def v10 (a : ATAnswer) : State := start (k1 .toNonSecure) .supervisor .nonSecure [a]
def v11 (a : ATAnswer) : State := { start (k1 .toSecure) .supervisor .secure [a] with ttbcrEAE := ⟨0, 1⟩ }
def v12 (a : ATAnswer) : State := { start (k4 .toSecure) .system .secure [a] with ttbcrEAE := ⟨0, 1⟩ }
def v13 (route : AbortRoute) (a : ATAnswer) : State :=
  { start (k4 route) .irq .nonSecure [a] with ttbcrEAE := ⟨0, 1⟩ }
def v14 (a : ATAnswer) : State := start (k4 .toNonSecure) .hyp .nonSecure [a]
def v15 (a : ATAnswer) : State :=
  { start (k4 .toNonSecure) .supervisor .nonSecure [a] with pan := 1, ttbcrEAE := ⟨0, 1⟩ }
def v16 (a : ATAnswer) : State := start (k3 .toSecure) .monitor .secure [a]
def v18 (a : ATAnswer) : State := { start (k4 .toNonSecure) .hyp .nonSecure [a] with hcrVM := 1 }
def v19 (a : ATAnswer) : State := { start (k4 .toSecure) .monitor .secure [a] with ttbcrEAE := ⟨0, 1⟩ }
def v20 (a : ATAnswer) : State := { start (k3 .toSecure) .supervisor .secure [a] with ttbcrEAE := ⟨1, 0⟩ }
def v23 (a : ATAnswer) : State := { start (k4 .toSecure) .monitor .secure [a] with scrNS := 1 }
def v24 (a : ATAnswer) : State := start (k6 .toNonSecure) .hyp .nonSecure [a]

/-- `PAR[i]` of the next state. -/
def parAfter (o : Host.Outcome State Fault Refusal) (i : Bank) : Option DWord :=
  match o with
  | .next t => some (t.par.get i)
  | .fault _ | .refused _ => none

/-- A field of the next state. -/
def after {α : Type} (o : Host.Outcome State Fault Refusal) (f : State → α) : Option α :=
  match o with
  | .next t => some (f t)
  | .fault _ | .refused _ => none

/-- Why a step was refused. -/
def refusedWith (o : Host.Outcome State Fault Refusal) : Option Refusal :=
  match o with
  | .refused r => some r
  | .next _ | .fault _ => none

/-! ### One step of each instruction -/

/-- V30, the low word (the high word is a draw). -/
theorem test_ats1cpr_V30 :
    ∃ t, exec (.ats1cpr 0) (v10 (.ok 0x0080012345 attrs32)) = .next t ∧ (t.par.get .NS).low = 0x800122FC ∧
      t.parDirty = ⟨false, true⟩ ∧ t.pc = 0xFFFFFFFC :=
  ⟨_, rfl, BitVec.extractLsb'_append_eq_right, rfl, rfl⟩

/-- V31: from Hyp mode, always the 64-bit format. -/
theorem test_ats1cpr_V31 :
    parAfter (exec (.ats1cpr 0) (v14 (.ok 0x1234567ABC attrs64))) .NS = some 0xFF00001234567B80 := by decide

/-- V11 with V33's answer: no EL3, Secure state, one PAR. -/
theorem test_ats1cpw_V11 : parAfter (exec (.ats1cpw 5) (v11 (.fault .one false 0b000101 0))) .NS = some 0x80B := by decide

/-- V43: a synchronous External abort from Secure state. -/
theorem test_ats1cur_V43 :
    after (exec (.ats1cur 1) (v12 .syncExternalAbort)) (fun t => (t.dfsr, t.dfar, t.par.nonSecure, t.ended)) =
      some (⟨.syncExternalAbortOnWalk, .other⟩, ⟨0x00012345, 0⟩, 0,
        some ⟨.dataAbort .sync, .routed .toSecure, 0xFFFFFFF8, false⟩) := by decide

/-- V33. -/
theorem test_ats1cuw_V33 : parAfter (exec (.ats1cuw 2) (v13 .toHyp (.fault .one false 0b000101 0))) .NS = some 0x80B := by
  decide

/-- V34: the Hyp Trap. -/
theorem test_ats1cuw_V34 :
    after (exec (.ats1cuw 2) (v13 .toHyp (.fault .two true 0b000110 0x0040002000)))
        (fun t => (t.hsr.walk, t.hsr.cm, t.hpfar, t.hdfar)) = some (true, true, 0x0040002000, 0x00012345) ∧
    after (exec (.ats1cuw 2) (v13 .toHyp (.fault .two true 0b000110 0x0040002000)))
        (fun t => (t.parDirty, t.pc, t.ended)) =
      some (⟨false, true⟩, 0xFFFFFFF8, some ⟨.hypTrap, .hypMode, 0xFFFFFFF8, false⟩) := by decide

/-- P5: UNDEFINED without FEAT_PAN2. -/
theorem test_ats1cprp_P5 :
    after (exec (.ats1cprp 0) { v10 (.ok 0 attrs32) with cfg := { k1 .toNonSecure with havePAN2 := false } })
        (fun t => (t.ended, t.par, t.parDirty)) =
      some (some ⟨.undefinedInstruction, .notInSource, 0xFFFFFFF8, false⟩, ⟨0, 0⟩, ⟨false, false⟩) := by decide

/-- V16: the request of ATS1CPRP in Monitor mode. -/
theorem test_ats1cprp_V16 :
    request ats1cprpOp 0x00012345 (v16 .syncExternalAbort) =
      ⟨.securePL10, .s1Only, 0x00012345, false, false, some 0⟩ := by decide

/-- V48, with V15's request: `pan = some(1)`. -/
theorem test_ats1cpwp_V48 :
    parAfter (exec (.ats1cpwp 0) (v15 (.fault .one false 0b001111 0))) .NS = some 0x81F := by decide

theorem test_ats1cpwp_V15 :
    request ats1cpwpOp 0x00012345 (v15 .syncExternalAbort) =
      ⟨.nonSecurePL10, .s1Only, 0x00012345, true, false, some 1⟩ := by decide

/-- V17's request. -/
theorem test_ats12nsopr_V17 :
    request ats12nsoprOp 0x00012345 (v14 .syncExternalAbort) =
      ⟨.nonSecurePL10, .s1AndS2, 0x00012345, false, false, none⟩ := by decide

/-- V45: an address wider than the 32-bit format holds leaves a draw in both halves, and the instruction completes. -/
theorem test_ats12nsopr_V45 :
    ∃ t, exec (.ats12nsopr 0) (v14 (.ok 0x0140003000 attrs32)) = .next t ∧
      (t.par.get .NS).low = Config.unknown 32 0 ∧ t.pc = 0xFFFFFFFC ∧ t.ended = none :=
  ⟨_, rfl, BitVec.extractLsb'_append_eq_right, rfl, rfl⟩

/-- V36 and V49. -/
theorem test_ats12nsopw_V36 :
    parAfter (exec (.ats12nsopw 3) (v18 (.fault .two false 0b001110 0x0040003000))) .NS = some 0xA1D := by decide

theorem test_ats12nsopw_V49 :
    parAfter (exec (.ats12nsopw 3) (v18 (.fault .one false 0b111101 0))) .NS = some 0x87B := by decide

/-- V37: from Monitor mode, in the Secure instance. -/
theorem test_ats12nsour_V37 :
    after (exec (.ats12nsour 9) (v19 (.fault .two true 0b000110 0x0040002000))) (·.par) = some ⟨0xB0D, 0⟩ := by decide

/-- V44: an asynchronous External abort. -/
theorem test_ats12nsour_V44 :
    after (exec (.ats12nsour 9) (v19 .asyncExternalAbort))
        (fun t => (t.dfsr, t.dfar, t.hdfar, t.hpfar)) = some (⟨.asyncExternalAbort, .other⟩, ⟨0, 0⟩, 0, 0) ∧
    after (exec (.ats12nsour 9) (v19 .asyncExternalAbort))
        (fun t => t.ended.map fun r => (r.kind, r.target, r.atPc)) =
      some (some (.dataAbort .async, .routed .toSecure, 0xFFFFFFF8)) := by decide

/-- R23, R230: `pc` keeps the address of the instruction; at the last address nothing wraps and nothing is refused. -/
theorem test_async_abort_at_last_address :
    after (exec (.ats12nsour 9) { v19 .asyncExternalAbort with pc := 0xFFFFFFFC })
        (fun t => (t.pc, t.ended.map fun r => r.atPc)) = some (0xFFFFFFFC, some 0xFFFFFFFC) := by decide

/-- V20 (90_conflicts.md C2): without EL2 the Non-secure EAE decides, and the request is for stage 1. -/
theorem test_ats12nsouw_V20 :
    request ats12nsouwOp 0x00012345 (v20 .syncExternalAbort) =
        ⟨.nonSecurePL10, .s1Only, 0x00012345, true, true, none⟩ ∧
      format ats12nsouwOp (v20 .syncExternalAbort) = .f32 ∧ resultBank ats12nsouwOp (v20 .syncExternalAbort) = .S := by
  decide

/-- R144's worked example: the trap to EL3. -/
theorem test_ats12nsouw_R144 :
    after (exec (.ats12nsouw 0) (start (k5 .toSecure) .supervisor .secure [])) (fun t => (t.ended, t.par)) =
      some (some ⟨.trapToEL3 ats12nsouwOp, .el3, 0xFFFFFFF8, false⟩, ⟨0, 0⟩) := by decide

/-- V46. -/
theorem test_ats1hr_V46 :
    parAfter (exec (.ats1hr 0) (v14 (.ok 0xFF80000000 ⟨attrs32.short, ⟨0x04, 0, 1, 2⟩, 0⟩))) .NS =
      some 0x040000FF80000B00 := by decide

/-- K4, Secure Supervisor mode: refused (section 3, X (12)). -/
theorem test_ats1hr_X12 :
    refusedWith (exec (.ats1hr 0) (start (k4 .toSecure) .supervisor .secure [])) = some .ats1hInSecurePL1NotMonitor := by
  decide

/-- V47: from Monitor mode the Secure instance, whatever SCR.NS is. -/
theorem test_ats1hw_V47 :
    after (exec (.ats1hw 7) (v23 (.fault .one false 0b001111 0))) (fun t => (t.par, t.parDirty)) =
      some (⟨0x81F, 0⟩, ⟨true, false⟩) := by decide

/-- V1: without EL2, UNDEFINED. -/
theorem test_ats1hw_V1 :
    after (exec (.ats1hw 7) (start (k3 .toSecure) .monitor .secure [])) (·.ended) =
      some (some ⟨.undefinedInstruction, .notInSource, 0xFFFFFFF8, false⟩) := by decide

/-- V38, V39 and V40: answers that are not well formed. -/
theorem test_malformed_answers :
    refusedWith (exec (.ats1cur 0) (v12 (.fault .two true 0 0))) = some .answerNotWellFormed ∧
    refusedWith (exec (.ats1cpr 0) (v10 (.fault .two false 0 0))) = some .answerNotWellFormed ∧
    refusedWith (exec (.ats1cuw 0) (v13 .toHyp (.fault .two false 0 0))) = some .answerNotWellFormed := by decide

/-- The state of V60: K1, Non-secure Supervisor mode. -/
def v60 : State := { v10 .syncExternalAbort with par := ⟨0, 0xFF00001234567B80⟩ }

/-- The states of V64 to V66: K4 and two different instances of PAR. -/
def v64 (m : Mode) (ns : BitVec 1) : State :=
  { start (k4 .toSecure) m .secure [] with
    scrNS := ns, par := ⟨0x1111111122222222, 0x3333333344444444⟩, x := Vector.replicate 15 0xAABBCCDD }

theorem test_parRead32_V60 :
    after (exec (.parRead32 1) v60) (fun t => (t.readX 1, t.readX 0, t.par, t.pc)) =
      some (0x34567B80, 0x00012345, ⟨0, 0xFF00001234567B80⟩, 0xFFFFFFFC) := by decide

/-- V65 and V66: in Monitor mode SCR.NS selects the instance. -/
theorem test_parRead32_V65_V66 :
    after (exec (.parRead32 2) (v64 .monitor 1)) (·.readX 2) = some 0x44444444 ∧
    after (exec (.parRead32 2) (v64 .monitor 0)) (·.readX 2) = some 0x22222222 := by decide

theorem test_parWrite32_V64 :
    parAfter (exec (.parWrite32 0) (v64 .supervisor 0)) .S = some 0x11111111AABBCCDD ∧
    parAfter (exec (.parWrite32 0) (v64 .supervisor 0)) .NS = some 0x3333333344444444 := by decide

/-- V71: a write while a result is pending leaves a draw, and the flag stays. -/
theorem test_parWrite32_V71 :
    after (exec (.parWrite32 0) { v60 with parDirty := ⟨false, true⟩ }) (·.parDirty) = some ⟨false, true⟩ := by decide

theorem test_parRead64_V61 :
    after (exec (.parRead64 0 1) v60) (fun t => (t.readX 0, t.readX 1)) = some (0x34567B80, 0xFF000012) := by decide

/-- V69: User mode. -/
theorem test_parRead64_V69 :
    after (exec (.parRead64 0 1) { v60 with mode := .user }) (fun t => (t.ended, t.x, t.par)) =
      some (some ⟨.undefinedInstruction, .notInSource, 0xFFFFFFF8, false⟩, v60.x, v60.par) := by decide

/-- V67: `x[2]` is the low word, `x[3]` the high one. -/
theorem test_parWrite64_V67 :
    parAfter (exec (.parWrite64 2 3) ((v14 .syncExternalAbort).writeX 2 1 |>.writeX 3 0x80)) .NS =
      some 0x0000008000000001 := by decide

/-- V68: PAR is not banked with EL3 using AArch64, so Secure state writes the one instance. -/
theorem test_parWrite64_V68 :
    parAfter (exec (.parWrite64 2 3) ((start (k6 .toSecure) .supervisor .secure []).writeX 2 1 |>.writeX 3 0)) .NS =
      some 1 := by decide

/-- V63 and V70: ISB clears the flags, in User mode too. -/
theorem test_isb_V70 :
    after (exec .isb { v60 with mode := .user, parDirty := ⟨true, true⟩ }) (fun t => (t.parDirty, t.pc, t.ended)) =
      some (⟨false, false⟩, 0xFFFFFFFC, none) := by decide

/-- R23: a wrap of `pc` is refused. -/
theorem test_isb_wrap : refusedWith (exec .isb { v60 with pc := 0xFFFFFFFC }) = some .pcWraps := by decide

/-! ### Memory and the step -/

theorem test_memory_canonical : Memory.placeWord [] 0 0xEE070F18 = [(0, 0x18), (1, 0x0F), (2, 0x07), (3, 0xEE)] := by
  decide

theorem test_memory_overwrite : Memory.write [(0, 1), (4, 2)] 4 7 = [(0, 1), (4, 7)] := by decide

/-- The first instruction after reset. -/
theorem test_step_after_reset :
    after (step (State.reset.withFetchWord 32 0xF57FF06F)) (·.pc) = some 4 := by decide

/-- With nothing placed, the first step faults. -/
theorem test_step_nothing_loaded :
    (match step State.reset with
      | .fault f => some f
      | .next _ | .refused _ => none) = some (.fetchUnlisted 0) := by decide

/-- After an exception nothing runs (R230). -/
theorem test_step_after_exception :
    (match step { v60 with ended := some ⟨.hypTrap, .hypMode, 8, false⟩ } with
      | .fault f => some f
      | .next _ | .refused _ => none) = some (.exceptionOutcome ⟨.hypTrap, .hypMode, 8, false⟩) := by decide

/-! ### Witnesses: encoding -/

theorem witness_DecodeInvertsEncode :
    Instr.wellFormed (.parRead64 13 14) = true ∧ Instr.wellFormed (.parWrite64 14 14) = true ∧
    Instr.wellFormed (.ats1cpr 14) = true ∧ Instr.wellFormed .isb = true := by decide

theorem witness_DecodedWordIsTheEncoding :
    decode 0xEC5EDF07#32 = .ok (.parRead64 13 14) ∧ decode 0xEE87EF38#32 = .ok (.ats1hw 14) := by decide

/-- The lowest and the highest other condition. -/
theorem witness_OtherConditionsAreRefused :
    (0x0E070F18#32).extractLsb' 28 4 ≠ 0b1110#4 ∧ 0x0E070F18#32 ≠ 0xF57FF06F#32 ∧
    (0xFE070F18#32).extractLsb' 28 4 ≠ 0b1110#4 ∧ 0xFE070F18#32 ≠ 0xF57FF06F#32 := by decide

/-- One word for each of the five clauses. -/
theorem witness_OperandCornersAreRefused :
    (0xEE07FF18#32 &&& 0xFFFF0FFF#32 = 0xEE070F18#32 ∧ (0xEE07FF18#32).extractLsb' 12 4 = 15#4) ∧
    (0xEC4FFF07#32 &&& 0xFFF00FFF#32 = 0xEC400F07#32 ∧ (0xEC4FFF07#32).extractLsb' 12 4 = 15#4) ∧
    (0xEC5F0F07#32 &&& 0xFFF00FFF#32 = 0xEC500F07#32 ∧ (0xEC5F0F07#32).extractLsb' 12 4 ≠ 15#4 ∧
      (0xEC5F0F07#32).extractLsb' 16 4 = 15#4) ∧
    (0xEC5EEF07#32 &&& 0xFFF00FFF#32 = 0xEC500F07#32 ∧ (0xEC5EEF07#32).extractLsb' 12 4 ≠ 15#4 ∧
      (0xEC5EEF07#32).extractLsb' 16 4 = (0xEC5EEF07#32).extractLsb' 12 4) ∧
    (0xEE070F59#32 &&& 0xFFFF0FFF#32 ∉ oneRegRows.map Prod.fst ∧ 0xEE070F59#32 &&& 0xFFF00FFF#32 ∉ twoRegRows.map Prod.fst ∧
      0xEE070F59#32 ≠ 0xF57FF06F#32) := by decide

/-! ### Witnesses: the step -/

/-- A program of one ISB at the lowest and at the highest address. -/
def isbAt (pc : Word) : State := { v60 with pc := pc, mem := Memory.placeWord [] pc 0xF57FF06F }

theorem witness_StepRunsTheDecodedInstruction (pc : Word) (h : pc = 0 ∨ pc = 0xFFFFFFFC) :
    (isbAt pc).ended = none ∧ Admitted (isbAt pc) ∧ (isbAt pc).pc.toNat % 4 = 0 ∧
    (isbAt pc).mem.read (isbAt pc).pc.toNat = some 0x6F ∧ (isbAt pc).mem.read ((isbAt pc).pc.toNat + 1) = some 0xF0 ∧
    (isbAt pc).mem.read ((isbAt pc).pc.toNat + 2) = some 0x7F ∧
    (isbAt pc).mem.read ((isbAt pc).pc.toNat + 3) = some 0xF5 ∧
    decodeBytes [0x6F, 0xF0, 0x7F, 0xF5] = .ok (.isb, []) := by
  rcases h with rfl | rfl <;> decide

/-- One state for each of the five clauses. -/
theorem witness_StepsThatRunNothing :
    { v60 with ended := some ⟨.hypTrap, .hypMode, 8, false⟩ }.ended = some ⟨.hypTrap, .hypMode, 8, false⟩ ∧
    ({ v60 with mode := .hyp }.ended = none ∧ ¬ Admitted { v60 with mode := .hyp }) ∧
    (v60.ended = none ∧ Admitted { v60 with pc := 2 } ∧ { v60 with pc := 2 }.pc.toNat % 4 ≠ 0) ∧
    (v60.ended = none ∧ Admitted v60 ∧ v60.pc.toNat % 4 = 0 ∧ v60.mem.word v60.pc = none) ∧
    (v60.ended = none ∧ Admitted v60 ∧ v60.pc.toNat % 4 = 0 ∧
      (v60.withFetchWord 32 0xEE07FF18).mem.word v60.pc = some 0xEE07FF18 ∧
      decode 0xEE07FF18#32 = .error .rtIsFifteen) :=
  ⟨by decide, by decide, by decide, by decide, by decide⟩

theorem inv_isbAt (pc : Word) (h : pc = 0 ∨ pc = 0xFFFFFFF8) : Inv (isbAt pc) := by
  rcases h with rfl | rfl <;> exact ⟨by decide, by decide, by decide, by decide, by decide⟩

/-- A step that completes, and one that takes an exception. -/
theorem witness_StepKeepsTheInvariant :
    (∃ t, Inv (isbAt 0) ∧ step (isbAt 0) = .next t ∧ t.ended = none) ∧
    (∃ t, Inv (v13 .toHyp (.fault .two true 6 0) |>.withFetchWord 32 0xEE070F78) ∧
      step (v13 .toHyp (.fault .two true 6 0) |>.withFetchWord 32 0xEE070F78) = .next t ∧ t.ended ≠ none) := by
  refine ⟨⟨_, inv_isbAt 0 (.inl rfl), rfl, rfl⟩, ⟨_, ⟨by decide, by decide, by decide, by decide, by decide⟩, rfl, ?_⟩⟩
  intro h
  cases h

theorem witness_EveryInstructionRunsFirstAfterReset :
    Instr.wellFormed (.parRead64 0 14) = true ∧ Instr.wellFormed (.ats12nsouw 14) = true := by decide

/-! ### Witnesses: the request -/

/-- A name of each family, with and without PAN, in each Security state, with and without EL2. -/
theorem witness_RequestOfEachName :
    (atForm (.ats1cprp 14) = some (ats1cprpOp, 14) ∧ ats1cprpOp.pan = true ∧ ats1cprpOp.family = .ats1c ∧
      (v16 .syncExternalAbort).sec = .secure ∧ (v15 .syncExternalAbort).sec = .nonSecure) ∧
    (atForm (.ats12nsouw 0) = some (ats12nsouwOp, 0) ∧ ats12nsouwOp.pan = false ∧ ats12nsouwOp.family = .ats12nso ∧
      (v18 .syncExternalAbort).cfg.haveEL2 = true ∧ (v20 .syncExternalAbort).cfg.haveEL2 = false) ∧
    (atForm (.ats1hw 1) = some (ats1hwOp, 1) ∧ ats1hwOp.family = .ats1h) := by decide

/-- IPA: V13. PA: Secure state, no EL2, and another family. -/
theorem witness_KindOfTheOutputAddress :
    (atForm (.ats1cuw 2) = some (ats1cuwOp, 2) ∧ ats1cuwOp.family = .ats1c ∧
      (v13 .toHyp .syncExternalAbort).sec = .nonSecure ∧ (v13 .toHyp .syncExternalAbort).cfg.haveEL2 = true) ∧
    (v12 .syncExternalAbort).sec ≠ .nonSecure ∧ (v10 .syncExternalAbort).cfg.haveEL2 ≠ true ∧
    (atForm (.ats1hr 0) = some (ats1hrOp, 0) ∧ ats1hrOp.family ≠ .ats1c) := by decide

/-! ### Witnesses: the rows of R191 -/

/-- An admitted state in a row of R191, at an address that the instruction completes from. No part of it reads the oracle's
answer, so the theorems below show it for one answer and have it for every answer. -/
def RowAt (row : ATOp → State → Bank → ParFmt → Prop) (op : ATOp) (s : State) (b : Bank) (f : ParFmt) : Prop :=
  Admitted s ∧ row op s b f ∧ s.pc.toNat + 4 < 2 ^ 32

/-- ATS1C** in a Secure PL1 mode (V12). -/
theorem row_ats1c_secure (a : ATAnswer) : RowAt Ats1cRow ats1curOp (v12 a) .S .f32 := by
  show RowAt Ats1cRow ats1curOp (v12 .syncExternalAbort) .S .f32
  exact ⟨by decide, ⟨rfl, by decide, .inl (by decide)⟩, by decide⟩

/-- ATS1C** in a Non-secure PL1 mode, with each abort route that K4 has (V13). -/
theorem row_ats1c_nonSecure (route : AbortRoute) (h : route ≠ .toEL3AArch64) (a : ATAnswer) :
    RowAt Ats1cRow ats1cuwOp (v13 route a) .NS .f64 ∧ NonSecurePL1 (v13 route a) := by
  show RowAt Ats1cRow ats1cuwOp (v13 route .syncExternalAbort) .NS .f64 ∧ NonSecurePL1 (v13 route .syncExternalAbort)
  cases route
  case toEL3AArch64 => exact absurd rfl h
  all_goals exact ⟨⟨by decide, ⟨rfl, by decide, .inr (.inl (by decide))⟩, by decide⟩, by decide⟩

/-- The PAN form (V15). -/
theorem row_ats1c_pan (a : ATAnswer) : RowAt Ats1cRow ats1cpwpOp (v15 a) .NS .f64 := by
  show RowAt Ats1cRow ats1cpwpOp (v15 .syncExternalAbort) .NS .f64
  exact ⟨by decide, ⟨rfl, by decide, .inr (.inl (by decide))⟩, by decide⟩

/-- ATS1C** in Hyp mode (V14). -/
theorem row_ats1c_hyp (a : ATAnswer) : RowAt Ats1cRow ats1cprOp (v14 a) .NS .f64 ∧ ¬ NonSecurePL1 (v14 a) := by
  show RowAt Ats1cRow ats1cprOp (v14 .syncExternalAbort) .NS .f64 ∧ ¬ NonSecurePL1 (v14 .syncExternalAbort)
  exact ⟨⟨by decide, ⟨rfl, by decide, .inr (.inr (by decide))⟩, by decide⟩, by decide⟩

/-- ATS12NSO** in a Secure PL1 mode without EL2 (V20). -/
theorem row_ats12nso_secure_noEL2 (a : ATAnswer) : RowAt Ats12nsoRow ats12nsouwOp (v20 a) .S .f32 := by
  show RowAt Ats12nsoRow ats12nsouwOp (v20 .syncExternalAbort) .S .f32
  exact ⟨by decide, ⟨rfl, by decide, .inl (by decide)⟩, by decide⟩

/-- ATS12NSO** in a Secure PL1 mode with EL2 (V19). -/
theorem row_ats12nso_secure (a : ATAnswer) : RowAt Ats12nsoRow ats12nsourOp (v19 a) .S .f64 := by
  show RowAt Ats12nsoRow ats12nsourOp (v19 .syncExternalAbort) .S .f64
  exact ⟨by decide, ⟨rfl, by decide, .inl (by decide)⟩, by decide⟩

/-- ATS12NSO** in Hyp mode, in the 32-bit format (V17). -/
theorem row_ats12nso_hyp_f32 (a : ATAnswer) : RowAt Ats12nsoRow ats12nsoprOp (v14 a) .NS .f32 := by
  show RowAt Ats12nsoRow ats12nsoprOp (v14 .syncExternalAbort) .NS .f32
  exact ⟨by decide, ⟨rfl, by decide, .inr (by decide)⟩, by decide⟩

/-- ATS12NSO** in Hyp mode, in the 64-bit format (V18). -/
theorem row_ats12nso_hyp (a : ATAnswer) : RowAt Ats12nsoRow ats12nsopwOp (v18 a) .NS .f64 := by
  show RowAt Ats12nsoRow ats12nsopwOp (v18 .syncExternalAbort) .NS .f64
  exact ⟨by decide, ⟨rfl, by decide, .inr (by decide)⟩, by decide⟩

/-- ATS1H* in Monitor mode (V23). -/
theorem row_ats1h_monitor (a : ATAnswer) : RowAt Ats1hRow ats1hwOp (v23 a) .S .f64 := by
  show RowAt Ats1hRow ats1hwOp (v23 .syncExternalAbort) .S .f64
  exact ⟨by decide, ⟨rfl, rfl, rfl, .inl (by decide)⟩, by decide⟩

/-- ATS1H* in Hyp mode (V22), and where PAR is not banked (V24). -/
theorem row_ats1h_hyp (a : ATAnswer) : RowAt Ats1hRow ats1hrOp (v14 a) .NS .f64 := by
  show RowAt Ats1hRow ats1hrOp (v14 .syncExternalAbort) .NS .f64
  exact ⟨by decide, ⟨rfl, rfl, rfl, .inr (by decide)⟩, by decide⟩

theorem row_ats1h_unbanked (a : ATAnswer) : RowAt Ats1hRow ats1hrOp (v24 a) .NS .f64 := by
  show RowAt Ats1hRow ats1hrOp (v24 .syncExternalAbort) .NS .f64
  exact ⟨by decide, ⟨rfl, rfl, rfl, .inr (by decide)⟩, by decide⟩

/-- ATS1H* in Hyp mode with aborts routed to an EL3 using AArch64, and with the other visibility rule. -/
theorem row_ats1h_toEL3AArch64 (a : ATAnswer) :
    RowAt Ats1hRow ats1hrOp (start (k6 .toEL3AArch64) .hyp .nonSecure [a]) .NS .f64 := by
  show RowAt Ats1hRow ats1hrOp (start (k6 .toEL3AArch64) .hyp .nonSecure [.syncExternalAbort]) .NS .f64
  exact ⟨by decide, ⟨rfl, rfl, rfl, .inr (by decide)⟩, by decide⟩

theorem row_ats1h_immediate (a : ATAnswer) :
    RowAt Ats1hRow ats1hrOp { v14 a with cfg := { k4 .toNonSecure with parSync := .immediate } } .NS .f64 := by
  show RowAt Ats1hRow ats1hrOp { v14 .syncExternalAbort with cfg := { k4 .toNonSecure with parSync := .immediate } } .NS .f64
  exact ⟨by decide, ⟨rfl, rfl, rfl, .inr (by decide)⟩, by decide⟩

/-- Each disjunct of R182 alone, neither, and HCR.VM = 1 without EL2. -/
theorem witness_FormatOfAts12nsoAndAts1h :
    (atForm (.ats12nsopr 14) = some (ats12nsoprOp, 14) ∧ ats12nsoprOp.family = .ats12nso) ∧
    (v19 .syncExternalAbort).ttbcrEAE.nonSecure = 1 ∧
    ((v18 .syncExternalAbort).cfg.haveEL2 = true ∧ (v18 .syncExternalAbort).hcrVM = 1) ∧
    ((v14 .syncExternalAbort).ttbcrEAE.nonSecure ≠ 1 ∧
      ¬ ((v14 .syncExternalAbort).cfg.haveEL2 = true ∧ (v14 .syncExternalAbort).hcrVM = 1)) ∧
    ((v20 .syncExternalAbort).ttbcrEAE.nonSecure ≠ 1 ∧
      ¬ ({ v20 .syncExternalAbort with hcrVM := 1 }.cfg.haveEL2 = true ∧ (1 : BitVec 1) = 1)) ∧
    (atForm (.ats1hr 0) = some (ats1hrOp, 0) ∧ ats1hrOp.family = .ats1h) := by decide

theorem witness_FormatAndInstanceByPlace :
    Admitted (v12 .syncExternalAbort) ∧ (Ats1cRow ats1curOp (v12 .syncExternalAbort) .S .f32 ∨
      Ats12nsoRow ats1curOp (v12 .syncExternalAbort) .S .f32 ∨ Ats1hRow ats1curOp (v12 .syncExternalAbort) .S .f32) :=
  ⟨(row_ats1c_secure _).1, .inl (row_ats1c_secure _).2.1⟩

/-- A success in Secure state, a stage 1 fault in a Non-secure PL1 mode, a stage 2 fault in Hyp mode. -/
theorem witness_Ats1cReportsItsResultInPar :
    (atForm (.ats1cur 14) = some (ats1curOp, 14) ∧ RowAt Ats1cRow ats1curOp (v12 (.ok 0xFFFFFFFFFF attrs32)) .S .f32 ∧
      ∀ q, (v12 (.ok 0xFFFFFFFFFF attrs32)).answer q = .ok 0xFFFFFFFFFF attrs32) ∧
    (atForm (.ats1cuw 0) = some (ats1cuwOp, 0) ∧ RowAt Ats1cRow ats1cuwOp (v13 .toHyp (.fault .one false 5 0)) .NS .f64 ∧
      (∀ q, (v13 .toHyp (.fault .one false 5 0)).answer q = .fault .one false 5 0) ∧
      ∀ va, wellFormedAnswer (k4 .toHyp) (request ats1cuwOp va (v13 .toHyp (.fault .one false 5 0))) (.fault .one false 5 0) =
        true) ∧
    (atForm (.ats1cpr 0) = some (ats1cprOp, 0) ∧ RowAt Ats1cRow ats1cprOp (v14 (.fault .two true 6 0)) .NS .f64 ∧
      (∀ q, (v14 (.fault .two true 6 0)).answer q = .fault .two true 6 0) ∧
      (∀ va, wellFormedAnswer (k4 .toNonSecure) (request ats1cprOp va (v14 (.fault .two true 6 0))) (.fault .two true 6 0) =
        true) ∧ (NonSecurePL1 (v14 (.fault .two true 6 0)) → Stage.two = .one)) :=
  ⟨⟨rfl, row_ats1c_secure _, fun _ => rfl⟩,
    ⟨rfl, (row_ats1c_nonSecure _ (by decide) _).1, fun _ => rfl, fun _ => rfl⟩,
    ⟨rfl, (row_ats1c_hyp _).1, fun _ => rfl, fun _ => rfl, fun h => absurd h (row_ats1c_hyp _).2⟩⟩

/-- A success in Secure state without EL2, a stage 2 fault in Hyp mode. -/
theorem witness_Ats12nsoReportsItsResultInPar :
    (atForm (.ats12nsouw 14) = some (ats12nsouwOp, 14) ∧ RowAt Ats12nsoRow ats12nsouwOp (v20 (.ok 0 attrs32)) .S .f32 ∧
      ∀ q, (v20 (.ok 0 attrs32)).answer q = .ok 0 attrs32) ∧
    (atForm (.ats12nsopw 0) = some (ats12nsopwOp, 0) ∧
      RowAt Ats12nsoRow ats12nsopwOp (v18 (.fault .two false 14 0)) .NS .f64 ∧
      (∀ q, (v18 (.fault .two false 14 0)).answer q = .fault .two false 14 0) ∧
      ∀ va, wellFormedAnswer (k4 .toNonSecure) (request ats12nsopwOp va (v18 (.fault .two false 14 0)))
        (.fault .two false 14 0) = true) :=
  ⟨⟨rfl, row_ats12nso_secure_noEL2 _, fun _ => rfl⟩, ⟨rfl, row_ats12nso_hyp _, fun _ => rfl, fun _ => rfl⟩⟩

theorem witness_Ats1hReportsItsResultInPar :
    (atForm (.ats1hr 14) = some (ats1hrOp, 14) ∧ RowAt Ats1hRow ats1hrOp (v14 (.ok 0 attrs64)) .NS .f64 ∧
      ∀ q, (v14 (.ok 0 attrs64)).answer q = .ok 0 attrs64) ∧
    (atForm (.ats1hw 0) = some (ats1hwOp, 0) ∧ RowAt Ats1hRow ats1hwOp (v23 (.fault .one false 63 0)) .S .f64 ∧
      ∀ q, (v23 (.fault .one false 63 0)).answer q = .fault .one false 63 0) :=
  ⟨⟨rfl, row_ats1h_hyp _, fun _ => rfl⟩, ⟨rfl, row_ats1h_monitor _, fun _ => rfl⟩⟩

/-- With each visibility rule. -/
theorem witness_EveryCompletionMarksItsInstance :
    (∃ t, RowAt Ats1hRow ats1hwOp (v23 (.fault .one false 63 0)) .S .f64 ∧
      exec (.ats1hw 0) (v23 (.fault .one false 63 0)) = .next t ∧
      (v23 (.fault .one false 63 0)).cfg.parSync = .needsContextSync) ∧
    (∃ t, RowAt Ats1hRow ats1hrOp { v14 .syncExternalAbort with cfg := { k4 .toNonSecure with parSync := .immediate } } .NS
        .f64 ∧
      exec (.ats1hr 0) { v14 .syncExternalAbort with cfg := { k4 .toNonSecure with parSync := .immediate } } = .next t) :=
  ⟨⟨_, row_ats1h_monitor _, rfl, rfl⟩, ⟨_, row_ats1h_immediate _, rfl⟩⟩

theorem witness_DeprecatedUseBehavesAsInMonitorMode :
    atForm (.ats12nsour 9) = some (ats12nsourOp, 9) ∧ ats12nsourOp.family = .ats12nso ∧
    (v19 .asyncExternalAbort).sec = .secure ∧ EL3AArch32 (v19 .asyncExternalAbort).cfg ∧ Mode.system ≠ .user ∧
    Mode.system ≠ .hyp := by decide

/-! ### Witnesses: exceptions -/

theorem witness_Stage2FaultOnTheWalkTakesTheHypTrap :
    atForm (.ats1cuw 2) = some (ats1cuwOp, 2) ∧ Admitted (v13 .toHyp (.fault .two true 6 0x40002000)) ∧
    ats1cuwOp.family = .ats1c ∧ ats1cuwOp.pan = false ∧ NonSecurePL1 (v13 .toHyp (.fault .two true 6 0x40002000)) ∧
    (v13 .toHyp (.fault .two true 6 0x40002000)).cfg.haveEL2 = true ∧
    ∀ q, (v13 .toHyp (.fault .two true 6 0x40002000)).answer q = .fault .two true 6 0x40002000 :=
  ⟨rfl, (row_ats1c_nonSecure _ (by decide) _).1.1, rfl, rfl, (row_ats1c_nonSecure _ (by decide) _).2, rfl, fun _ => rfl⟩

/-- Each of the four routes; the last from Hyp mode of K6. -/
theorem witness_SyncExternalAbortTakesADataAbort :
    (∀ route, route ≠ .toEL3AArch64 → RowAt Ats1cRow ats1cuwOp (v13 route .syncExternalAbort) .NS .f64 ∧
      (v13 route .syncExternalAbort).cfg.syncRoute = route ∧
      ∀ q, (v13 route .syncExternalAbort).answer q = .syncExternalAbort) ∧
    (RowAt Ats1hRow ats1hrOp (start (k6 .toEL3AArch64) .hyp .nonSecure [.syncExternalAbort]) .NS .f64 ∧
      ∀ q, (start (k6 .toEL3AArch64) .hyp .nonSecure [.syncExternalAbort]).answer q = .syncExternalAbort) :=
  ⟨fun route h => ⟨(row_ats1c_nonSecure route h _).1, rfl, fun _ => rfl⟩, ⟨row_ats1h_toEL3AArch64 _, fun _ => rfl⟩⟩

theorem witness_AsyncExternalAbortTakesADataAbort :
    (∀ route, route ≠ .toEL3AArch64 → RowAt Ats1cRow ats1cuwOp (v13 route .asyncExternalAbort) .NS .f64 ∧
      (v13 route .asyncExternalAbort).cfg.asyncRoute = route ∧
      ∀ q, (v13 route .asyncExternalAbort).answer q = .asyncExternalAbort) ∧
    (RowAt Ats1hRow ats1hrOp (start (k6 .toEL3AArch64) .hyp .nonSecure [.asyncExternalAbort]) .NS .f64 ∧
      ∀ q, (start (k6 .toEL3AArch64) .hyp .nonSecure [.asyncExternalAbort]).answer q = .asyncExternalAbort) :=
  ⟨fun route h => ⟨(row_ats1c_nonSecure route h _).1, rfl, fun _ => rfl⟩, ⟨row_ats1h_toEL3AArch64 _, fun _ => rfl⟩⟩

/-- One state for each of the five cases of R221. -/
theorem witness_UndefinedInstructionCases :
    (Instr.wellFormed (.parRead64 0 14) = true ∧ Instr.parRead64 0 14 ≠ .isb ∧ AtEL0 { v60 with mode := .user }) ∧
    (atForm (.ats1cpwp 0) = some (ats1cpwpOp, 0) ∧ ats1cpwpOp.pan = true ∧
      ({ k1 .toNonSecure with havePAN2 := false } : Cfg).havePAN2 = false) ∧
    (atForm (.ats12nsopr 0) = some (ats12nsoprOp, 0) ∧ ats12nsoprOp.family = .ats12nso ∧
      (k1 .toNonSecure).haveEL2 = false ∧ (k1 .toNonSecure).haveEL3 = false) ∧
    (atForm (.ats1hr 0) = some (ats1hrOp, 0) ∧ ats1hrOp.family = .ats1h ∧ (k5 .toSecure).haveEL2 = false) ∧
    (Admitted (v13 .toHyp .syncExternalAbort) ∧ NonSecurePL1 (v13 .toHyp .syncExternalAbort)) := by decide

theorem witness_Ats12nsoTrapsToEL3 :
    atForm (.ats12nsouw 0) = some (ats12nsouwOp, 0) ∧ ats12nsouwOp.family = .ats12nso ∧
    SecurePL1 (start (k5 .toSecure) .supervisor .secure []) ∧ (k5 .toSecure).haveEL3 = true ∧
    (k5 .toSecure).el3IsAArch32 = false := by decide

theorem witness_Ats1hIsRefusedInSecurePL1NotMonitor :
    atForm (.ats1hr 0) = some (ats1hrOp, 0) ∧ ats1hrOp.family = .ats1h ∧
    Admitted (start (k4 .toSecure) .supervisor .secure []) ∧ (k4 .toSecure).haveEL2 = true ∧
    SecurePL1NotMon (start (k4 .toSecure) .supervisor .secure []) := by decide

/-- An answer that breaks (a), one that breaks (b) and one that breaks (c) of R109. -/
theorem witness_MalformedAnswersAreRefused :
    (RowAt Ats1cRow ats1curOp (v12 (.fault .one true 0 0)) .S .f32 ∧
      ∀ q, (v12 (.fault .one true 0 0)).answer q = .fault .one true 0 0) ∧
    (RowAt Ats1hRow ats1hwOp (v23 (.fault .two true 0 0)) .S .f64 ∧
      ∀ q, (v23 (.fault .two true 0 0)).answer q = .fault .two true 0 0) ∧
    (RowAt Ats1cRow ats1cprOp (v14 (.fault .two false 0 0)) .NS .f64 ∧
      ∀ q, (v14 (.fault .two false 0 0)).answer q = .fault .two false 0 0) :=
  ⟨⟨row_ats1c_secure _, fun _ => rfl⟩, ⟨row_ats1h_monitor _, fun _ => rfl⟩, ⟨(row_ats1c_hyp _).1, fun _ => rfl⟩⟩

/-! ### Witnesses: direct access to PAR, and ISB -/

theorem witness_InstanceOfADirectAccess :
    (InMonitor (v64 .monitor 1) ∧ (v64 .monitor 1).scrNS = 1) ∧ (InMonitor (v64 .monitor 0) ∧ (v64 .monitor 0).scrNS ≠ 1) ∧
    (¬ InMonitor (v64 .supervisor 0) ∧ (v64 .supervisor 0).sec = .secure) ∧
    (¬ InMonitor v60 ∧ v60.sec = .nonSecure) := by decide

/-- With no result pending and with one, at the highest address an instruction completes from; for both reads and both
writes. -/
theorem witness_accesses :
    (¬ AtEL0 v60 ∧ v60.pc.toNat + 4 < 2 ^ 32 ∧ v60.parDirty.get (accessedBank v60) = false) ∧
    (¬ AtEL0 { v60 with parDirty := ⟨false, true⟩ } ∧
      { v60 with parDirty := ⟨false, true⟩ }.parDirty.get (accessedBank { v60 with parDirty := ⟨false, true⟩ }) = true) ∧
    (13 : Reg) ≠ 14 := by decide

theorem witness_IsbClearsBothFlags :
    v60.pc.toNat + 4 < 2 ^ 32 ∧ 2 ^ 32 ≤ { v60 with pc := 0xFFFFFFFC }.pc.toNat + 4 := by decide

/-- Two accesses from the highest address two instructions complete from. -/
theorem witness_Write64ThenRead64 :
    ∃ s1 s2, AtPL1OrHigher { v60 with pc := 0xFFFFFFF4 } ∧
      { v60 with pc := 0xFFFFFFF4 }.parDirty.get (accessedBank { v60 with pc := 0xFFFFFFF4 }) = false ∧
      exec (.parWrite64 0 0) { v60 with pc := 0xFFFFFFF4 } = .next s1 ∧ exec (.parRead64 13 14) s1 = .next s2 :=
  ⟨_, _, by decide, by decide, rfl, rfl⟩

/-- Program P2 of spec/95_test_vectors.md, without its memory. -/
theorem witness_SynchronisedReadSeesTheResult :
    ∃ s1 s2 s3, atForm (.ats12nsopw 3) = some (ats12nsopwOp, 3) ∧
      { v18 (.ok 0x1234567ABC attrs64) with pc := 0x00010000 }.ended = none ∧
      exec (.ats12nsopw 3) { v18 (.ok 0x1234567ABC attrs64) with pc := 0x00010000 } = .next s1 ∧ s1.ended = none ∧
      exec .isb s1 = .next s2 ∧ exec (.parRead64 4 5) s2 = .next s3 :=
  ⟨_, _, _, rfl, rfl, rfl, rfl, rfl, rfl⟩

/-! ### Witnesses: whole-machine rules -/

/-- A completion and an exception: for the rules about every next state. -/
theorem witness_next_states :
    (∃ t, exec (.parRead32 1) v60 = .next t ∧ v60.ended = none ∧ t.ended = none ∧ t.readX 1 ≠ v60.readX 1) ∧
    (∃ t, exec (.ats1cuw 2) (v13 .toHyp (.fault .two true 6 0x40002000)) = .next t ∧
      Admitted (v13 .toHyp (.fault .two true 6 0x40002000)) ∧
      t.ended = some ⟨.hypTrap, .hypMode, 0xFFFFFFF8, false⟩ ∧ t.hpfar ≠ (v13 .toHyp (.fault .two true 6 0x40002000)).hpfar) :=
  ⟨⟨_, rfl, rfl, rfl, by decide⟩, ⟨_, rfl, (row_ats1c_nonSecure _ (by decide) _).1.1, rfl, by decide⟩⟩

theorem witness_UserModeNeitherSeesNorWritesPar :
    ∃ t, AtEL0 { v60 with mode := .user } ∧ exec (.parRead32 1) { v60 with mode := .user } = .next t :=
  ⟨_, rfl, rfl⟩

theorem witness_NonSecureStateNeverTouchesTheSecurePar :
    Admitted (v14 .syncExternalAbort) ∧ (v14 .syncExternalAbort).sec = .nonSecure ∧
    EL3AArch32 (v14 .syncExternalAbort).cfg := by decide

theorem witness_CompletedRunsAreSequential : ∃ t, Inv (isbAt 0xFFFFFFF8) ∧ Completes 1 (isbAt 0xFFFFFFF8) t :=
  ⟨_, inv_isbAt _ (.inr rfl), rfl, rfl⟩

/-! ### Witnesses: packing -/

theorem witness_packing : (k1 .toNonSecure).packPAR = .generalKnowledge := rfl

/-- The premises of `EveryPackingSatisfiesTheLaws`: equal packed successes, of no supersection, in both formats and for
both choices of packing. -/
theorem witness_EveryPackingSatisfiesTheLaws :
    attrs32.short.ss = 0 ∧ (k1 .toNonSecure).packPAR = .generalKnowledge ∧ ∀ c : Cfg,
      packPAR32 c (.ok 0x0080012345 attrs32) = packPAR32 c (.ok 0x0080012345 attrs32) ∧
      packPAR64 c (.ok 0x0080012345 attrs32) = packPAR64 c (.ok 0x0080012345 attrs32) :=
  ⟨rfl, rfl, fun _ => ⟨rfl, rfl⟩⟩

/-- GK4: for a supersection PA[31:24] stands in bits [31:24] and PA[39:32] in bits [23:16]. -/
theorem test_supersection_packing :
    (gkSupersectionPacking.pack32 (.ok 0x1280000000 { attrs32 with short.ss := 1 })).extractLsb' 16 16 = 0x8012#16 := by
  decide

/-- V30, V31, V35: the layouts, packed. -/
theorem test_packing :
    packPAR32 (k1 .toNonSecure) (.ok 0x0080012345 attrs32) = 0x800122FC ∧
    packPAR32 (k1 .toNonSecure) (.fault .one false 0b000101) = 0xB ∧
    packPAR64 (k1 .toNonSecure) (.ok 0x1234567ABC attrs64) = 0xFF00001234567B80 ∧
    packPAR64 (k1 .toNonSecure) (.fault .two true 0b000110) = 0xB0D := by decide

end Sys2Proof.Tests
end

section
/-! PROOF. What every instruction keeps of the control state, and the invariant of the step (O35, O9). -/

namespace Sys2Proof.Machine

/-! ### What any instruction can do -/

/-- Everything an instruction can answer with a next state: an exception with no other write, a completed direct access or
ISB, a reported translation result, or an exception raised by a translation. -/
theorem exec_eq_next {i : Instr} {s t : State} (h : exec i s = .next t) :
    (∃ e, t = { s with ended := some e }) ∨
    (s.pc.toNat + 4 < addressSpace ∧ AccessFrame s t ∧
      (t.parDirty = s.parDirty ∨ t.parDirty = ⟨false, false⟩)) ∨
    (∃ op, s.pc.toNat + 4 < addressSpace ∧ ReportFrame s t (resultBank op s)) ∨
    (∃ op kind target adv, AbortFrame s t (resultBank op s) kind target adv) := by
  cases hi : atForm i with
  | none =>
    rcases access_eq_next hi h with ⟨-, ht⟩ | ⟨hpc, hf, hw⟩
    · exact .inl ⟨_, ht⟩
    · rcases hw with ⟨-, -, hd, -⟩ | ⟨-, -, hd, -⟩ | ⟨-, -, -, hd⟩
      · exact .inr (.inl ⟨hpc, hf, .inl hd⟩)
      · exact .inr (.inl ⟨hpc, hf, .inl hd⟩)
      · exact .inr (.inl ⟨hpc, hf, .inr hd⟩)
  | some p =>
    rcases at_eq_next hi h with ⟨-, ht⟩ | ⟨-, ht⟩ | ⟨-, hc⟩
    · exact .inl ⟨_, ht⟩
    · exact .inl ⟨_, ht⟩
    · rcases hc with ⟨hpc, hf, -⟩ | ⟨-, hf⟩ | ⟨hf, -⟩ | ⟨n, hf, -⟩
      · exact .inr (.inr (.inl ⟨p.1, hpc, hf⟩))
      · exact .inr (.inr (.inr ⟨p.1, _, _, _, hf⟩))
      · exact .inr (.inr (.inr ⟨p.1, _, _, _, hf⟩))
      · exact .inr (.inr (.inr ⟨p.1, _, _, _, hf⟩))

/-- No instruction writes the control state (R7, R24, R26, R27, R31, R32, R46, R62). -/
theorem exec_sameControl {i : Instr} {s t : State} (h : exec i s = .next t) : SameControl s t := by
  rcases exec_eq_next h with ⟨e, rfl⟩ | ⟨-, hf, -⟩ | ⟨op, -, hf⟩ | ⟨op, _, _, _, hf⟩
  · exact ⟨rfl, rfl, rfl, rfl, rfl, rfl, rfl, fun _ => rfl⟩
  · exact hf.control
  · exact hf.control
  · exact hf.control

/-- `pc` stays at the instruction or moves to the next one, and never wraps (R23). -/
theorem exec_pc {i : Instr} {s t : State} (h : exec i s = .next t) :
    t.pc = s.pc ∨ (s.pc.toNat + 4 < addressSpace ∧ t.pc = s.pc + 4) := by
  rcases exec_eq_next h with ⟨e, rfl⟩ | ⟨hpc, hf, -⟩ | ⟨op, hpc, hf⟩ | ⟨op, _, _, _, hf⟩
  · exact .inl rfl
  · exact .inr ⟨hpc, hf.pc⟩
  · exact .inr ⟨hpc, hf.pc⟩
  · exact .inl hf.pc

/-- The pending-result flags are kept, or both cleared (R176), or a translation has marked the one of its target instance
(R212). -/
theorem exec_parDirty {i : Instr} {s t : State} (h : exec i s = .next t) :
    t.parDirty = s.parDirty ∨ t.parDirty = ⟨false, false⟩ ∨ ∃ op, WritesOnePar s t (resultBank op s) := by
  rcases exec_eq_next h with ⟨e, rfl⟩ | ⟨-, -, hd | hd⟩ | ⟨op, -, hf⟩ | ⟨op, _, _, _, hf⟩
  · exact .inl rfl
  · exact .inl hd
  · exact .inr (.inl hd)
  · exact .inr (.inr ⟨op, hf.par⟩)
  · exact .inr (.inr ⟨op, hf.par⟩)

/-! ### The parts of the invariant -/

/-- The constraints on configuration and state read the control state only. -/
theorem SameControl.admitted {s t : State} (h : SameControl s t) (ha : Admitted s) : Admitted t := by
  simpa only [Admitted, AtEL0, InHyp, InMonitor, h.cfg, h.mode, h.sec, h.scrNS] using ha

theorem exec_pc_aligned {i : Instr} {s t : State} (h : exec i s = .next t) (ha : s.pc.toNat % 4 = 0) :
    t.pc.toNat % 4 = 0 := by
  rcases exec_pc h with hpc | ⟨hlt, hpc⟩
  · rwa [hpc]
  · rw [hpc, BitVec.toNat_add_of_lt hlt, Nat.add_mod, ha]; rfl

/-- A banked register is settled by its two instances, named from either one. -/
theorem Banked.ext_get {α : Type} {r r' : Banked α} (i : Bank) (h : r.get i = r'.get i)
    (h' : r.get i.other = r'.get i.other) : r = r' := by
  cases r; cases r'; cases i <;> simp_all [Banked.get, Bank.other]

/-- Where results are visible at once, a translation sets no flag (R42, R212). -/
theorem WritesOnePar.parDirty_of_immediate {s t : State} {i : Bank} (h : WritesOnePar s t i)
    (hs : s.cfg.parSync = .immediate) : t.parDirty = s.parDirty :=
  Banked.ext_get i (by simp [h.dirty, hs]) h.otherDirty

/-- Where PAR has one instance, a translation leaves the flag of the other name alone (R29). -/
theorem WritesOnePar.secure_parDirty_of_not_banked {s t : State} {op : ATOp} (h : WritesOnePar s t (resultBank op s))
    (hb : ¬ EL3AArch32 s.cfg) : t.parDirty.secure = s.parDirty.secure := by
  have ho := h.otherDirty
  rwa [resultBank, parIdx_of_not_banked hb] at ho

theorem exec_keeps_immediate {i : Instr} {s t : State} (h : exec i s = .next t) (hs : s.cfg.parSync = .immediate)
    (hd : s.parDirty = ⟨false, false⟩) : t.parDirty = ⟨false, false⟩ := by
  rcases exec_parDirty h with hk | hc | ⟨op, hw⟩
  · exact hk.trans hd
  · exact hc
  · exact (hw.parDirty_of_immediate hs).trans hd

theorem exec_keeps_unbanked {i : Instr} {s t : State} (h : exec i s = .next t) (hb : ¬ EL3AArch32 s.cfg)
    (hd : s.parDirty.secure = false) : t.parDirty.secure = false := by
  rcases exec_parDirty h with hk | hc | ⟨op, hw⟩
  · rw [hk, hd]
  · rw [hc]
  · exact (hw.secure_parDirty_of_not_banked hb).trans hd

/-- Every instruction keeps the invariant. -/
theorem exec_keeps_inv {i : Instr} {s t : State} (hs : Inv s) (h : exec i s = .next t) : Inv t where
  admitted := (exec_sameControl h).admitted hs.admitted
  aligned := exec_pc_aligned h hs.aligned
  memory := exec_mem h ▸ hs.memory
  immediate hi := by
    rw [(exec_sameControl h).cfg] at hi
    exact exec_keeps_immediate h hi (hs.immediate hi)
  unbanked hb := by
    rw [(exec_sameControl h).cfg] at hb
    exact exec_keeps_unbanked h hb (hs.unbanked hb)

/-! ### The obligations -/

/-- Settles O9: a step that answers a next state has executed an instruction, and every instruction keeps each part of the
invariant. -/
theorem stepKeepsTheInvariant : Obligations.StepKeepsTheInvariant := by
  intro s s' hs h
  obtain ⟨i, -, hx⟩ := step_eq_next h
  exact exec_keeps_inv hs hx

/-- Settles O35: the frame of each thing an instruction can do keeps the control state. -/
theorem controlStateIsNeverWritten : Obligations.ControlStateIsNeverWritten :=
  fun _ _ _ h => exec_sameControl h

end Sys2Proof.Machine
end

section
/-! PROOF. Runs that complete, what an instruction does to `pc`, the record, the general registers and HPFAR, and the
instruction a step runs (O44, O36, O37, O38, O40, O6, O8). -/

namespace Sys2Proof.Machine

/-! ### Completing or raising an exception -/

/-- What an instruction that completes without an exception does to `pc`, the record and the fault registers (R23, R203). -/
structure CompletionFrame (s t : State) : Prop where
  noWrap : s.pc.toNat + 4 < addressSpace
  pc : t.pc = s.pc + 4
  ended : t.ended = s.ended
  faultRegisters : SameFaultRegisters s t

/-- `t` holds the record `r` of an exception that the instruction at `pc` has raised (R23, R230). Only for an asynchronous
External abort may `r` say that `pc` had advanced (R206). -/
structure RaisedFrame (s t : State) (r : ExceptionRecord) : Prop where
  ended : t.ended = some r
  pc : t.pc = s.pc
  atPc : r.atPc = s.pc
  advanced : r.pcAdvanced = true → r.kind = .dataAbort .async

theorem AccessFrame.completion {s t : State} (h : AccessFrame s t) (hp : s.pc.toNat + 4 < addressSpace) :
    CompletionFrame s t :=
  ⟨hp, h.pc, h.ended, h.faultRegisters⟩

theorem ReportFrame.completion {s t : State} {i : Bank} (h : ReportFrame s t i) (hp : s.pc.toNat + 4 < addressSpace) :
    CompletionFrame s t :=
  ⟨hp, h.pc, h.ended, h.faultRegisters⟩

theorem AbortFrame.raised {s t : State} {i : Bank} {kind : ExceptionKind} {target : ExceptionTarget} {adv : Bool}
    (h : AbortFrame s t i kind target adv) (ha : adv = true → kind = .dataAbort .async) :
    RaisedFrame s t ⟨kind, target, s.pc, adv⟩ :=
  ⟨h.ended, h.pc, rfl, ha⟩

/-- An exception with no other write, taken at the instruction (R221, R222). -/
theorem raisedFrame_of_record (s : State) (kind : ExceptionKind) (target : ExceptionTarget) :
    RaisedFrame s { s with ended := some ⟨kind, target, s.pc, false⟩ } ⟨kind, target, s.pc, false⟩ :=
  ⟨rfl, rfl, rfl, nofun⟩

/-- An instruction that answers a next state has completed or has raised an exception. -/
theorem exec_completes_or_raises {i : Instr} {s t : State} (h : exec i s = .next t) :
    CompletionFrame s t ∨ ∃ r, RaisedFrame s t r := by
  cases hi : atForm i with
  | none =>
    rcases access_eq_next hi h with ⟨-, rfl⟩ | ⟨hp, hf, -⟩
    · exact .inr ⟨_, raisedFrame_of_record s _ _⟩
    · exact .inl (hf.completion hp)
  | some p =>
    rcases at_eq_next hi h with ⟨-, rfl⟩ | ⟨-, rfl⟩ | ⟨-, hc⟩
    · exact .inr ⟨_, raisedFrame_of_record s _ _⟩
    · exact .inr ⟨_, raisedFrame_of_record s _ _⟩
    · rcases hc with ⟨hp, hf, -⟩ | ⟨-, hf⟩ | ⟨hf, -⟩ | ⟨n, hf, -⟩
      · exact .inl (hf.completion hp)
      · exact .inr ⟨_, hf.raised nofun⟩
      · exact .inr ⟨_, hf.raised nofun⟩
      · exact .inr ⟨_, hf.raised fun _ => rfl⟩

/-- An instruction after which no exception has been taken has completed. -/
theorem exec_completion {i : Instr} {s t : State} (h : exec i s = .next t) (ht : t.ended = none) :
    CompletionFrame s t := by
  rcases exec_completes_or_raises h with hc | ⟨r, hr⟩
  · exact hc
  · cases hr.ended.symm.trans ht

/-- An instruction that leaves a record where there was none has raised that exception. -/
theorem exec_raised {i : Instr} {s t : State} {r : ExceptionRecord} (h : exec i s = .next t) (hs : s.ended = none)
    (ht : t.ended = some r) : RaisedFrame s t r := by
  rcases exec_completes_or_raises h with hc | ⟨r', hr⟩
  · cases (hc.ended.trans hs).symm.trans ht
  · cases hr.ended.symm.trans ht
    exact hr

/-! ### Runs -/

theorem completes_zero {s t : State} (h : Completes 0 s t) : t = s := by
  obtain ⟨hr, -⟩ := h
  cases hr
  rfl

/-- A run of `k + 1` steps is a step and a run of `k` steps. -/
theorem completes_succ {k : Nat} {s t : State} (h : Completes (k + 1) s t) :
    ∃ u, step s = .next u ∧ Completes k u t := by
  obtain ⟨hr, ht⟩ := h
  simp only [Host.Core.run] at hr
  split at hr
  · exact ⟨_, ‹_›, hr, ht⟩
  · cases hr
  · cases hr

/-- A run that completes starts where no exception has been taken (R230). -/
theorem Completes.start_ended {k : Nat} {s t : State} (h : Completes k s t) : s.ended = none := by
  cases k with
  | zero => exact completes_zero h ▸ h.2
  | succ k =>
    obtain ⟨u, hu, -⟩ := completes_succ h
    obtain ⟨i, hi, -⟩ := step_eq_next hu
    exact (fetch_eq_next hi).1

/-- One step of a run that completes. -/
theorem step_sequential {s t : State} (h : step s = .next t) (ht : t.ended = none) :
    SameControl s t ∧ SameFaultRegisters s t ∧ t.pc.toNat = s.pc.toNat + 4 := by
  obtain ⟨i, -, hx⟩ := step_eq_next h
  obtain ⟨hp, hpc, -, hf⟩ := exec_completion hx ht
  exact ⟨exec_sameControl hx, hf, hpc ▸ BitVec.toNat_add_of_lt hp⟩

/-! ### General registers and HPFAR -/

/-- No address translation instruction writes a general register (R22). -/
theorem at_x {i : Instr} {op : ATOp} {r : Reg} {s t : State} (hi : atForm i = some (op, r))
    (h : exec i s = .next t) : t.x = s.x := by
  rcases at_eq_next hi h with ⟨-, rfl⟩ | ⟨-, rfl⟩ | ⟨-, hc⟩
  · rfl
  · rfl
  · rcases hc with ⟨-, hf, -⟩ | ⟨-, hf⟩ | ⟨hf, -⟩ | ⟨n, hf, -⟩
    · exact hf.x
    · exact hf.x
    · exact hf.x
    · exact hf.x

/-- A register that differs after a write of one register is that one. -/
theorem reg_eq_of_getElem_set_ne {x : Vector Word 15} {r u : Reg} {v : Word}
    (h : (x.set r.val v)[u.val] ≠ x[u.val]) : r = u := by
  by_contra hne
  exact h (Vector.getElem_set_ne _ _ fun e => hne (Fin.ext e))

/-- A direct access to PAR or an ISB leaves HPFAR alone (R170 to R173, R176). -/
theorem access_hpfar {i : Instr} {s t : State} (hi : atForm i = none) (h : exec i s = .next t) : t.hpfar = s.hpfar := by
  rcases access_eq_next hi h with ⟨-, rfl⟩ | ⟨-, hf, -⟩
  · rfl
  · exact hf.faultRegisters.hpfar

/-- A translation that changes HPFAR has executed in a Non-secure PL1 mode and has taken the Hyp Trap (R34, R210). -/
theorem at_hpfar_ne {i : Instr} {op : ATOp} {r : Reg} {s t : State} (hi : atForm i = some (op, r))
    (h : exec i s = .next t) (hne : t.hpfar ≠ s.hpfar) :
    avail op s = .execute ∧ NonSecurePL1 s ∧ t.ended = some ⟨.hypTrap, .hypMode, s.pc, false⟩ := by
  rcases at_eq_next hi h with ⟨-, rfl⟩ | ⟨-, rfl⟩ | ⟨hx, hc⟩
  · exact absurd rfl hne
  · exact absurd rfl hne
  · rcases hc with ⟨-, hf, -⟩ | ⟨hn, hf⟩ | ⟨-, hh⟩ | ⟨n, -, hh⟩
    · exact absurd hf.faultRegisters.hpfar hne
    · exact ⟨hx, hn, hf.ended⟩
    · exact absurd hh hne
    · exact absurd hh hne

/-- Monitor mode is Secure, so no admitted state is in a Non-secure PL1 mode and in Monitor mode (R27). -/
theorem NonSecurePL1.not_inMonitor {s : State} (hn : NonSecurePL1 s) (ha : Admitted s) : ¬ InMonitor s := by
  intro hm
  obtain ⟨-, hsec⟩ := ha.1 hm
  cases hn.1.symm.trans hsec

/-! ### The word at `pc` -/

/-- The word at an aligned address, from the bytes at four consecutive addresses (R63): the addresses do not wrap. -/
theorem Memory.word_of_aligned {m : Memory} {a : Word} {b0 b1 b2 b3 : Byte} (ha : a.toNat % 4 = 0)
    (h0 : m.read a.toNat = some b0) (h1 : m.read (a.toNat + 1) = some b1) (h2 : m.read (a.toNat + 2) = some b2)
    (h3 : m.read (a.toNat + 3) = some b3) : m.word a = some (wordOfBytes b0 b1 b2 b3) := by
  have e1 : (a + 1).toNat = a.toNat + 1 := by bv_omega
  have e2 : (a + 2).toNat = a.toNat + 2 := by bv_omega
  have e3 : (a + 3).toNat = a.toNat + 3 := by bv_omega
  simp only [Memory.word, e1, e2, e3, h0, h1, h2, h3]

/-- Four bytes that decode are the bytes of a word that decodes (R92). -/
theorem decode_of_decodeBytes {b0 b1 b2 b3 : Byte} {i : Instr} {rest rest' : List Byte}
    (h : decodeBytes (b0 :: b1 :: b2 :: b3 :: rest) = .ok (i, rest')) : decode (wordOfBytes b0 b1 b2 b3) = .ok i := by
  simp only [decodeBytes] at h
  split at h
  · cases h
    assumption
  · cases h

/-! ### The obligations -/

/-- Settles O44, by induction on the number of steps: the first step is sequential, because the run that follows it starts
where no exception has been taken, and the frames compose. -/
theorem completedRunsAreSequential : Obligations.CompletedRunsAreSequential := by
  intro k
  induction k with
  | zero =>
    intro s t hs h
    cases completes_zero h
    exact ⟨hs, SameControl.refl s, SameFaultRegisters.refl s, rfl⟩
  | succ k ih =>
    intro s t hs h
    obtain ⟨u, hu, hr⟩ := completes_succ h
    obtain ⟨hc, hf, hp⟩ := step_sequential hu hr.start_ended
    obtain ⟨ht, hc', hf', hp'⟩ := ih u t (stepKeepsTheInvariant s u hs hu) hr
    exact ⟨ht, hc.trans hc', hf.trans hf', by omega⟩

/-- Settles O36: a translation writes no general register, and a direct access writes those of its operands only. -/
theorem onlyParReadsWriteGeneralRegisters : Obligations.OnlyParReadsWriteGeneralRegisters := by
  intro i s t u h hne
  simp only [State.readX] at hne
  cases hi : atForm i with
  | some p => exact absurd (by rw [at_x hi h]) hne
  | none =>
    rcases access_eq_next hi h with ⟨-, rfl⟩ | ⟨-, -, ⟨-, -, -, hr⟩ | ⟨-, hx, -⟩ | ⟨-, hx, -⟩⟩
    · exact absurd rfl hne
    · rcases hr with ⟨r, rfl, hx⟩ | ⟨r, r2, rfl, hx⟩
      · simp only [hx] at hne
        exact .inl (reg_eq_of_getElem_set_ne hne ▸ rfl)
      · simp only [hx] at hne
        by_cases h2 : r2 = u
        · exact .inr (.inr ⟨r, h2 ▸ rfl⟩)
        · rw [Vector.getElem_set_ne _ _ fun e => h2 (Fin.ext e)] at hne
          exact .inr (.inl ⟨r2, reg_eq_of_getElem_set_ne hne ▸ rfl⟩)
    · exact absurd (by rw [hx]) hne
    · exact absurd (by rw [hx]) hne

/-- Settles O37: the frame of an instruction that completes. -/
theorem completionAdvancesPcByFour : Obligations.CompletionAdvancesPcByFour := by
  intro i s t h _ ht
  have hc := exec_completion h ht
  exact ⟨hc.pc, hc.noWrap⟩

/-- Settles O38: the frame of an instruction that raises an exception. -/
theorem exceptionRecordNamesTheInstruction : Obligations.ExceptionRecordNamesTheInstruction := by
  intro i s t r h hs ht
  have hr := exec_raised h hs ht
  exact ⟨hr.atPc, hr.pc, hr.advanced⟩

/-- Settles O40: only the Hyp Trap writes HPFAR, and in a Non-secure PL1 mode only the family ATS1C** executes. -/
theorem hpfarChangesOnlyAtAHypTrap : Obligations.HpfarChangesOnlyAtAHypTrap := by
  intro i s t ha h hne
  cases hi : atForm i with
  | none => exact absurd (access_hpfar hi h) hne
  | some p =>
    obtain ⟨hx, hn, he⟩ := at_hpfar_ne hi h hne
    exact ⟨he, hn, p.1, p.2, rfl, family_of_execute_nonSecurePL1 hx hn (NonSecurePL1.not_inMonitor hn ha)⟩

/-- Settles O6: the four bytes are the word at `pc`, so the fetch answers the instruction. -/
theorem stepRunsTheDecodedInstruction : Obligations.StepRunsTheDecodedInstruction := by
  intro s b0 b1 b2 b3 i he ha hp h0 h1 h2 h3 hd
  have hw := Memory.word_of_aligned hp h0 h1 h2 h3
  exact step_of_fetch (fetch_of_word he ha hp hw (decode_of_decodeBytes hd))

/-- Settles O8: each part of the invariant is evaluated at the reset state. -/
theorem resetIsALaunchState : Obligations.ResetIsALaunchState := by
  have hi : Inv State.reset :=
    { admitted := by decide
      aligned := rfl
      memory := by decide
      immediate := fun _ => rfl
      unbanked := fun _ => rfl }
  exact ⟨hi, rfl, rfl⟩

end Sys2Proof.Machine
end

section
/-! PROOF. The decoder and the encoder are inverse to each other, and which words the decoder refuses (O2, O3, O4, O5,
O1). -/

namespace Sys2Proof

/-! ### The three ways through the decoder -/

theorem and_oneRegMask_and_twoRegMask (w : Word) : (w &&& oneRegMask) &&& twoRegMask = w &&& twoRegMask := by
  rw [BitVec.and_assoc]; rfl

/-- The word of a one-register row of R88 matches no two-register row. -/
theorem oneRegRow_not_mem_twoRegRows :
    ∀ k ∈ oneRegRows.map Prod.fst, k &&& twoRegMask ∉ twoRegRows.map Prod.fst :=
  List.forall_mem_map.mpr (by decide)

theorem decode_of_oneRegRow {w : Word} {mk : Reg → Instr} (h : oneRegRows.lookup (w &&& oneRegMask) = some mk) :
    decode w = decodeOneReg w mk := by
  simp only [decode, h]

/-- A word that matches a two-register row matches no one-register row, so the order of the two tables is immaterial. -/
theorem decode_of_twoRegRow {w : Word} {mk : Reg → Reg → Instr} (h : twoRegRows.lookup (w &&& twoRegMask) = some mk) :
    decode w = decodeTwoReg w mk := by
  have hone : oneRegRows.lookup (w &&& oneRegMask) = none := by
    refine lookup_eq_none fun hk => oneRegRow_not_mem_twoRegRows _ hk ?_
    rw [and_oneRegMask_and_twoRegMask]
    exact List.mem_map_of_mem (mem_of_lookup h)
  simp only [decode, hone, h]

/-- A word of no row, if it is not ISB, is refused; the reason depends on its condition (R83, R91). -/
theorem decode_of_no_row {w : Word} (h1 : w &&& oneRegMask ∉ oneRegRows.map Prod.fst)
    (h2 : w &&& twoRegMask ∉ twoRegRows.map Prod.fst) (hi : w ≠ isbWord) :
    decode w = .error (if condField w = 0b1110#4 then .noRow else .conditionNotAlways) := by
  simp only [decode, lookup_eq_none h1, lookup_eq_none h2, if_neg hi]
  split <;> rfl

/-! ### The operands -/

/-- A field other than 15 names a register (R84). -/
theorem exists_regOfField {f : BitVec 4} (h : f ≠ 15#4) : ∃ t, regOfField f = some t :=
  Option.ne_none_iff_exists'.mp fun hn => h (regOfField_eq_none.mp hn)

theorem decodeOneReg_of_reg {w : Word} {mk : Reg → Instr} {t : Reg} (h : regOfField (rtField w) = some t) :
    decodeOneReg w mk = .ok (mk t) := by
  simp only [decodeOneReg, h]

theorem decodeOneReg_of_rt_fifteen {w : Word} {mk : Reg → Instr} (h : rtField w = 15#4) :
    decodeOneReg w mk = .error .rtIsFifteen := by
  simp only [decodeOneReg, regOfField_eq_none.mpr h]

theorem decodeTwoReg_of_regs {w : Word} {mk : Reg → Reg → Instr} {t t2 : Reg} (h : regOfField (rtField w) = some t)
    (h2 : regOfField (rt2Field w) = some t2) :
    decodeTwoReg w mk = if (mk t t2).wellFormed then .ok (mk t t2) else .error .rtEqualsRt2 := by
  simp only [decodeTwoReg, h, h2]

theorem decodeTwoReg_of_rt_fifteen {w : Word} {mk : Reg → Reg → Instr} (h : rtField w = 15#4) :
    decodeTwoReg w mk = .error .rtIsFifteen := by
  simp only [decodeTwoReg, regOfField_eq_none.mpr h]

theorem decodeTwoReg_of_rt2_fifteen {w : Word} {mk : Reg → Reg → Instr} (h : rtField w ≠ 15#4)
    (h2 : rt2Field w = 15#4) : decodeTwoReg w mk = .error .rt2IsFifteen := by
  obtain ⟨t, ht⟩ := exists_regOfField h
  simp only [decodeTwoReg, ht, regOfField_eq_none.mpr h2]

/-- In the MRRC row equal register fields are refused (R85). -/
theorem decodeTwoReg_parRead64_of_same {w : Word} (h : rtField w ≠ 15#4) (h2 : rt2Field w = rtField w) :
    decodeTwoReg w .parRead64 = .error .rtEqualsRt2 := by
  obtain ⟨t, ht⟩ := exists_regOfField h
  simp [decodeTwoReg_of_regs ht (h2 ▸ ht), Instr.wellFormed]

/-! ### The rows and the encoder -/

/-- What the encoder writes for an instruction of a one-register row: the row's word outside `Rt`, and the operand there
(R81, R86, R87, R88). -/
theorem encode_oneRegRow : ∀ row ∈ oneRegRows, ∀ t : Reg,
    encode (row.2 t) &&& oneRegMask = row.1 ∧ rtField (encode (row.2 t)) = fieldOfReg t ∧
      (row.2 t).wellFormed = true := by decide

/-- What the encoder writes for an instruction of a two-register row: the row's word outside `Rt` and `Rt2`, and the
operands there (R85, R87, R88). -/
theorem encode_twoRegRow : ∀ row ∈ twoRegRows, ∀ t t2 : Reg,
    encode (row.2 t t2) &&& twoRegMask = row.1 ∧ rtField (encode (row.2 t t2)) = fieldOfReg t ∧
      rt2Field (encode (row.2 t t2)) = fieldOfReg t2 := by decide

/-- Every instruction but ISB is in a row with its operands: the row whose word is the `match` of R88. -/
theorem instr_is_of_a_row (i : Instr) :
    (∃ mk t, oneRegRows.lookup (Laws.RowWord.row i).2 = some mk ∧ i = mk t) ∨
    (∃ mk t t2, twoRegRows.lookup (Laws.RowWord.row i).2 = some mk ∧ i = mk t t2) ∨ i = .isb := by
  cases i with
  | ats1cpr t | ats1cpw t | ats1cur t | ats1cuw t | ats1cprp t | ats1cpwp t
  | ats12nsopr t | ats12nsopw t | ats12nsour t | ats12nsouw t
  | ats1hr t | ats1hw t | parRead32 t | parWrite32 t => exact .inl ⟨_, t, rfl, rfl⟩
  | parRead64 t t2 | parWrite64 t t2 => exact .inr (.inl ⟨_, t, t2, rfl, rfl⟩)
  | isb => exact .inr (.inr rfl)

theorem decode_encode_oneRegRow {k : Word} {mk : Reg → Instr} (h : oneRegRows.lookup k = some mk) (t : Reg) :
    decode (encode (mk t)) = .ok (mk t) := by
  obtain ⟨hk, hr, -⟩ := encode_oneRegRow _ (mem_of_lookup h) t
  rw [decode_of_oneRegRow (by rwa [hk]), decodeOneReg_of_reg (hr ▸ regOfField_fieldOfReg t)]

theorem decode_encode_twoRegRow {k : Word} {mk : Reg → Reg → Instr} (h : twoRegRows.lookup k = some mk) {t t2 : Reg}
    (hw : (mk t t2).wellFormed = true) : decode (encode (mk t t2)) = .ok (mk t t2) := by
  obtain ⟨hk, hr, hr2⟩ := encode_twoRegRow _ (mem_of_lookup h) t t2
  rw [decode_of_twoRegRow (by rwa [hk]),
    decodeTwoReg_of_regs (hr ▸ regOfField_fieldOfReg t) (hr2 ▸ regOfField_fieldOfReg t2), if_pos hw]

/-! ### The condition -/

theorem condField_and_oneRegMask (w : Word) : condField (w &&& oneRegMask) = condField w := by
  rw [condField, BitVec.extractLsb'_and]
  exact BitVec.and_allOnes

theorem condField_and_twoRegMask (w : Word) : condField (w &&& twoRegMask) = condField w := by
  rw [condField, BitVec.extractLsb'_and]
  exact BitVec.and_allOnes

/-- Every row of R88 has `cond = 1110`. -/
theorem condField_oneRegRow : ∀ k ∈ oneRegRows.map Prod.fst, condField k = 0b1110#4 :=
  List.forall_mem_map.mpr (by decide)

theorem condField_twoRegRow : ∀ k ∈ twoRegRows.map Prod.fst, condField k = 0b1110#4 :=
  List.forall_mem_map.mpr (by decide)

/-! ### The obligations -/

/-- Settles O2: the word of an instruction matches the row of the instruction, and its fields name the operands. -/
theorem decodeInvertsEncode : Obligations.DecodeInvertsEncode := by
  intro i hw
  rcases instr_is_of_a_row i with ⟨mk, t, h, rfl⟩ | ⟨mk, t, t2, h, rfl⟩ | rfl
  · exact decode_encode_oneRegRow h t
  · exact decode_encode_twoRegRow h hw
  · decide

/-- Settles O3: the word and the encoding agree under the mask of the row and in the register fields, which together are
all 32 bits. -/
theorem decodedWordIsTheEncoding : Obligations.DecodedWordIsTheEncoding := by
  intro w i h
  rcases decode_eq_ok h with ⟨mk, t, hl, ht, rfl⟩ | ⟨mk, t, t2, hl, ht, ht2, rfl, hw⟩ | ⟨rfl, rfl⟩
  · obtain ⟨hk, hr, hw⟩ := encode_oneRegRow _ (mem_of_lookup hl) t
    exact ⟨word_of_oneReg_parts hk (hr.trans (fieldOfReg_of_regOfField ht)), hw⟩
  · obtain ⟨hk, hr, hr2⟩ := encode_twoRegRow _ (mem_of_lookup hl) t t2
    exact ⟨word_of_twoReg_parts hk (hr.trans (fieldOfReg_of_regOfField ht))
      (hr2.trans (fieldOfReg_of_regOfField ht2)), hw⟩
  · exact ⟨rfl, rfl⟩

/-- Settles O4: both masks keep the condition, so a word with another one matches no row. -/
theorem otherConditionsAreRefused : Obligations.OtherConditionsAreRefused := by
  intro w hc hi
  have h1 : w &&& oneRegMask ∉ oneRegRows.map Prod.fst := fun hk =>
    hc ((condField_and_oneRegMask w).symm.trans (condField_oneRegRow _ hk))
  have h2 : w &&& twoRegMask ∉ twoRegRows.map Prod.fst := fun hk =>
    hc ((condField_and_twoRegMask w).symm.trans (condField_twoRegRow _ hk))
  exact (decode_of_no_row h1 h2 hi).trans (congrArg Except.error (if_neg hc))

/-- Settles O5: a word in a row decodes as its register fields say, and a word in no row is refused. -/
theorem operandCornersAreRefused : Obligations.OperandCornersAreRefused := by
  intro w
  refine ⟨fun hk hr => ?_, fun hk hr => ?_, fun hk hr hr2 => ?_, fun hk hr hr2 => ?_, fun h1 h2 hi => ?_⟩
  · obtain ⟨mk, hl⟩ := exists_lookup (l := oneRegRows) hk
    exact (decode_of_oneRegRow hl).trans (decodeOneReg_of_rt_fifteen hr)
  · obtain ⟨mk, hl⟩ := exists_lookup (l := twoRegRows) hk
    exact (decode_of_twoRegRow hl).trans (decodeTwoReg_of_rt_fifteen hr)
  · obtain ⟨mk, hl⟩ := exists_lookup (l := twoRegRows) hk
    exact (decode_of_twoRegRow hl).trans (decodeTwoReg_of_rt2_fifteen hr hr2)
  · have hl : twoRegRows.lookup (w &&& twoRegMask) = some .parRead64 := by rw [twoRegMask, hk]; rfl
    exact (decode_of_twoRegRow hl).trans (decodeTwoReg_parRead64_of_same hr hr2)
  · exact ⟨_, decode_of_no_row h1 h2 hi⟩

/-- Settles O1, by running the decoder on each word. -/
theorem writtenOutWordsDecode : Obligations.WrittenOutWordsDecode := by
  unfold Obligations.WrittenOutWordsDecode
  decide

end Sys2Proof
end

section
/-! PROOF. What the address translation instructions share: the request, the malformed answers, the refused place of
ATS1H*, and User mode (O11, O12, O26, O25, O42). -/

namespace Sys2Proof.Machine

/-! ### The request of each family -/

section
variable {op : ATOp} (h : op.family = .ats1c) (va : Word) (s : State)
include h

theorem request_stages_of_ats1c : (request op va s).stages = .s1Only := by
  simp only [request, h]

theorem request_regime_of_ats1c_secure (hs : s.sec = .secure) : (request op va s).regime = .securePL10 := by
  simp only [request, h, hs, if_true]

theorem request_regime_of_ats1c_nonSecure (hs : s.sec = .nonSecure) : (request op va s).regime = .nonSecurePL10 := by
  simp only [request, h, hs, reduceCtorEq, if_false]

end

section
variable {op : ATOp} (h : op.family = .ats12nso) (va : Word) (s : State)
include h

theorem request_regime_of_ats12nso : (request op va s).regime = .nonSecurePL10 := by
  simp only [request, h]

theorem request_stages_of_ats12nso :
    (request op va s).stages = if s.cfg.haveEL2 = true then .s1AndS2 else .s1Only := by
  simp only [request, h]

end

section
variable {op : ATOp} (h : op.family = .ats1h) (va : Word) (s : State)
include h

theorem request_regime_of_ats1h : (request op va s).regime = .nonSecureEL2 := by
  simp only [request, h]

theorem request_stages_of_ats1h : (request op va s).stages = .s1Only := by
  simp only [request, h]

end

theorem request_pan (op : ATOp) (va : Word) (s : State) :
    (request op va s).pan = if op.pan = true then some s.pan else none := rfl

/-- An instruction asks for stage 1 only of the Non-secure PL1&0 regime, where there is an EL2, exactly when it is an
ATS1C** instruction in Non-secure state (R104): ATS12NSO** then asks for both stages. -/
theorem request_is_nonSecure_stage1_iff (op : ATOp) (va : Word) (s : State) :
    ((request op va s).regime = .nonSecurePL10 ∧ (request op va s).stages = .s1Only ∧ s.cfg.haveEL2 = true) ↔
      (op.family = .ats1c ∧ s.sec = .nonSecure ∧ s.cfg.haveEL2 = true) := by
  cases hf : op.family with
  | ats1c =>
    cases hs : s.sec with
    | secure => simp [request_regime_of_ats1c_secure hf va s hs]
    | nonSecure => simp [request_regime_of_ats1c_nonSecure hf va s hs, request_stages_of_ats1c hf]
  | ats12nso => simp [request_stages_of_ats12nso hf]
  | ats1h => simp [request_regime_of_ats1h hf]

/-! ### Malformed answers -/

section
variable {c : Cfg} {req : ATRequest} {w : Bool} {code : BitVec 6} {ipa : OutAddr}

/-- R109 (a): a fault on a walk is not one of stage 1. -/
theorem stage1_fault_on_walk_malformed : wellFormedAnswer c req (.fault .one true code ipa) = false := rfl

/-- R109 (b): there is no stage 2 outside the Non-secure PL1&0 regime, and none without EL2. -/
theorem stage2_fault_malformed_of_no_stage2 (h : c.haveEL2 = false ∨ req.regime ≠ .nonSecurePL10) :
    wellFormedAnswer c req (.fault .two w code ipa) = false := by
  rcases h with h | h <;> simp [wellFormedAnswer, h]

/-- R109 (c): a stage 2 fault of a request for stage 1 only is one on the walk. -/
theorem stage2_fault_off_walk_malformed_of_s1Only (h : req.stages = .s1Only) :
    wellFormedAnswer c req (.fault .two false code ipa) = false := by
  simp [wellFormedAnswer, h]

end

/-! ### Availability -/

theorem InHyp.haveEL2_and_nonSecure {s : State} (hh : InHyp s) (ha : Admitted s) :
    s.cfg.haveEL2 = true ∧ s.sec = .nonSecure := ha.2.1 hh

/-- Hyp mode is Non-secure, so no admitted state is in a Secure PL1 mode and in Hyp mode (R27). -/
theorem SecurePL1.not_inHyp {s : State} (hp : SecurePL1 s) (ha : Admitted s) : ¬ InHyp s := by
  intro hh
  obtain ⟨-, hsec⟩ := InHyp.haveEL2_and_nonSecure hh ha
  cases hp.1.symm.trans hsec

theorem InHyp.not_atEL0 {s : State} (hh : InHyp s) : ¬ AtEL0 s := by simp [AtEL0, hh]

theorem InMonitor.not_atEL0 {s : State} (hm : InMonitor s) : ¬ AtEL0 s := by simp [AtEL0, hm]

/-- R103 case (1). -/
theorem avail_of_atEL0 {s : State} (op : ATOp) (h : AtEL0 s) : avail op s = .undefined := if_pos h

/-- R103 case (3): an ATS1C** instruction executes in each of its rows. -/
theorem Ats1cRow.executes {op : ATOp} {s : State} {i : Bank} {f : ParFmt} (h : Ats1cRow op s i f) :
    avail op s = .execute := by
  obtain ⟨hf, hpan, hplace⟩ := h
  have h0 : ¬ AtEL0 s := by
    rcases hplace with ⟨hp, -⟩ | ⟨hp, -⟩ | ⟨hh, -⟩
    · exact hp.2
    · exact hp.2.1
    · exact InHyp.not_atEL0 hh
  have hno : ¬ (op.pan = true ∧ s.cfg.havePAN2 = false) := fun hu => by
    cases (hpan hu.1).symm.trans hu.2
  simp only [avail, if_neg h0, hf, availAts1c, if_neg hno]

/-- R103 cases (6) and (7): an ATS12NSO** instruction executes in each of its rows. -/
theorem Ats12nsoRow.executes {op : ATOp} {s : State} {i : Bank} {f : ParFmt} (h : Ats12nsoRow op s i f)
    (ha : Admitted s) : avail op s = .execute := by
  obtain ⟨hf, -, ⟨hp, ⟨h3, h32⟩, -⟩ | ⟨hh, -⟩⟩ := h
  · simp [avail, hf, availAts12nso, hp, h3, h32]
  · obtain ⟨h2, -⟩ := InHyp.haveEL2_and_nonSecure hh ha
    have hp : ¬ SecurePL1 s := fun hp => hp.not_inHyp ha hh
    simp [avail, InHyp.not_atEL0 hh, hf, availAts12nso, h2, hp, hh]

/-- R103 cases (10) and (11): an ATS1H* instruction executes in each of its rows. -/
theorem Ats1hRow.executes {op : ATOp} {s : State} {i : Bank} {f : ParFmt} (h : Ats1hRow op s i f) :
    avail op s = .execute := by
  obtain ⟨hf, -, h2, ⟨hm, -⟩ | ⟨hh, -⟩⟩ := h
  · simp [avail, InMonitor.not_atEL0 hm, hf, availAts1h, h2, hm]
  · simp [avail, InHyp.not_atEL0 hh, hf, availAts1h, h2, hh]

/-- An address translation instruction executes in every row of R191. -/
theorem avail_of_row {op : ATOp} {s : State} {i : Bank} {f : ParFmt} (ha : Admitted s)
    (h : Ats1cRow op s i f ∨ Ats12nsoRow op s i f ∨ Ats1hRow op s i f) : avail op s = .execute := by
  rcases h with h | h | h
  · exact h.executes
  · exact h.executes ha
  · exact h.executes

/-- R103 case (12): the place where ATS1H* is CONSTRAINED UNPREDICTABLE. -/
theorem avail_ats1h_of_securePL1NotMon {op : ATOp} {s : State} (hf : op.family = .ats1h) (ha : Admitted s)
    (h2 : s.cfg.haveEL2 = true) (h : SecurePL1NotMon s) : avail op s = .unpredictable := by
  obtain ⟨hp, hm⟩ := h
  simp [avail, hp.2, hf, availAts1h, h2, hp.not_inHyp ha, hm, hp.1]

/-! ### The refusals of the template -/

theorem atExecute_of_unpredictable {op : ATOp} {s : State} (r : Reg) (h : avail op s = .unpredictable) :
    atExecute op r s = .refused .ats1hInSecurePL1NotMonitor := by
  simp only [atExecute, h]

theorem atExecute_of_malformed {op : ATOp} {r : Reg} {s : State} (h : avail op s = .execute)
    (hw : wellFormedAnswer s.cfg (request op (s.readX r) s) (s.answer (request op (s.readX r) s)) = false) :
    atExecute op r s = .refused .answerNotWellFormed := by
  simp [atExecute, h, translate, hw]

/-! ### User mode -/

/-- The one form that the spec does not admit, MRRC with `t == t2`, is refused in every state (R85). -/
theorem exec_of_not_wellFormed {i : Instr} (h : i.wellFormed = false) (s : State) :
    exec i s = .refused .mrrcSameRegister := by
  cases i with
  | parRead64 t t2 =>
    have ht : t = t2 := by simpa [Instr.wellFormed] using h
    exact if_pos ht
  | _ => cases h

/-- In User mode every instruction but ISB is UNDEFINED (R221; decisions D10, D24). -/
theorem exec_of_atEL0 {i : Instr} {s : State} (hw : i.wellFormed = true) (hi : i ≠ .isb) (h0 : AtEL0 s) :
    exec i s = raiseUndefined s := by
  cases hf : atForm i with
  | some p => rw [exec_of_atForm hf]; simp only [atExecute, avail_of_atEL0 p.1 h0]
  | none =>
    cases i with
    | parRead32 t => exact if_pos h0
    | parWrite32 t => exact if_pos h0
    | parWrite64 t t2 => exact if_pos h0
    | parRead64 t t2 =>
      have ht : t ≠ t2 := by simpa [Instr.wellFormed] using hw
      exact (if_neg ht).trans (if_pos h0)
    | isb => exact absurd rfl hi
    | _ => cases hf

/-- An update of the state that leaves `pc` alone commutes with completing. -/
theorem complete_commutes {f : State → State} {s : State} (hpc : (f s).pc = s.pc)
    (hf : f { s with pc := s.pc + 4 } = { f s with pc := s.pc + 4 }) : (f s).complete = mapNext f s.complete := by
  unfold State.complete
  rw [hpc]
  split
  · exact congrArg _ hf.symm
  · rfl

/-! ### The obligations -/

/-- Settles O26: the instruction executes, and the answer breaks one of the three laws for the request it made. -/
theorem malformedAnswersAreRefused : Obligations.MalformedAnswersAreRefused := by
  intro i op r s b f st w c ipa hi ha hrow hans hbad
  rw [exec_of_atForm hi]
  refine atExecute_of_malformed (avail_of_row ha hrow) ?_
  rw [hans]
  rcases hbad with ⟨rfl, rfl⟩ | ⟨rfl, h2 | hh | ⟨hc, hs⟩⟩ | ⟨rfl, rfl, hc⟩
  · exact stage1_fault_on_walk_malformed
  · exact stage2_fault_malformed_of_no_stage2 (.inl h2)
  · exact stage2_fault_malformed_of_no_stage2 (.inr (by simp [request_regime_of_ats1h hh]))
  · exact stage2_fault_malformed_of_no_stage2 (.inr (by simp [request_regime_of_ats1c_secure hc _ s hs]))
  · exact stage2_fault_off_walk_malformed_of_s1Only (request_stages_of_ats1c hc ..)

/-- Settles O42: in User mode an instruction is UNDEFINED, refused for its form, or ISB; none of these
reads PAR. -/
theorem userModeNeitherSeesNorWritesPar : Obligations.UserModeNeitherSeesNorWritesPar := by
  intro i s h0
  by_cases hi : i = .isb
  · subst hi
    refine ⟨fun t h => ?_, fun v => ?_⟩
    · obtain ⟨-, rfl⟩ := State.complete_eq_next h
      exact ⟨rfl, rfl⟩
    · exact complete_commutes (f := fun t => { t with par := v }) (s := s.synchronize) rfl rfl
  · cases hw : i.wellFormed with
    | false =>
      refine ⟨fun t h => ?_, fun v => ?_⟩
      · cases (exec_of_not_wellFormed hw s).symm.trans h
      · rw [exec_of_not_wellFormed hw, exec_of_not_wellFormed hw]; rfl
    | true =>
      refine ⟨fun t h => ?_, fun v => ?_⟩
      · cases (exec_of_atEL0 hw hi h0).symm.trans h
        exact ⟨rfl, rfl⟩
      · rw [exec_of_atEL0 (s := { s with par := v }) hw hi h0, exec_of_atEL0 hw hi h0]; rfl

/-- Settles O11: the request's fields, family by family. -/
theorem requestOfEachName : Obligations.RequestOfEachName := by
  intro i op r va s _
  refine ⟨rfl, rfl, rfl, fun hp => ?_, fun hp => ?_, fun hf => ?_, fun hf => ?_, fun hf => ?_⟩
  · rw [request_pan, if_pos hp]
  · rw [request_pan, hp]; rfl
  · exact ⟨request_stages_of_ats1c hf va s, request_regime_of_ats1c_secure hf va s,
      request_regime_of_ats1c_nonSecure hf va s⟩
  · refine ⟨request_regime_of_ats12nso hf va s, fun h2 => ?_, fun h2 => ?_⟩ <;>
      simp [request_stages_of_ats12nso hf, h2]
  · exact ⟨request_regime_of_ats1h hf va s, request_stages_of_ats1h hf va s⟩

/-- Settles O12: the kind is decided by the regime and the stages of the request. -/
theorem kindOfTheOutputAddress : Obligations.KindOfTheOutputAddress := by
  intro i op r s _
  rw [← request_is_nonSecure_stage1_iff op (s.readX r) s]
  exact ⟨fun h => if_pos h, fun h => if_neg h⟩

/-- Settles O25: the availability of ATS1H* there, which the template refuses by name. -/
theorem ats1hIsRefusedInSecurePL1NotMonitor : Obligations.Ats1hIsRefusedInSecurePL1NotMonitor := by
  intro i op r s hi hf ha h2 hp
  rw [exec_of_atForm hi]
  exact atExecute_of_unpredictable r (avail_ats1h_of_securePL1NotMon hf ha h2 hp)

end Sys2Proof.Machine
end

section
/-! PROOF. The ATS12NSO** instructions: the result each reports in PAR, and that it is the same in every Secure PL1 mode
(O16, O19). -/

namespace Sys2Proof.Machine

/-! ### The row of an ATS12NSO** instruction -/

/-- An ATS12NSO** instruction executes in every Secure PL1 mode of an EL3 that uses AArch32, Monitor mode included (R103
case (7)). -/
theorem avail_ats12nso_of_securePL1 {op : ATOp} {s : State} (hf : op.family = .ats12nso) (hp : SecurePL1 s)
    (h3 : EL3AArch32 s.cfg) : avail op s = .execute := by
  simp [avail, hp, hf, availAts12nso, h3.1, h3.2]

theorem format_of_ats12nso {op : ATOp} (hf : op.family = .ats12nso) (s : State) : format op s = formatAts12nso s := by
  simp only [format, hf]

theorem target_of_ats12nso {op : ATOp} (hf : op.family = .ats12nso) (s : State) :
    target op s = if InHyp s then .NS else .S := by
  simp only [target, hf]

/-- R182: the format that the row gives. -/
theorem Ats12nsoRow.format_eq {op : ATOp} {s : State} {i : Bank} {f : ParFmt} (h : Ats12nsoRow op s i f) :
    format op s = f := by
  obtain ⟨hf, hfmt, -⟩ := h
  rw [format_of_ats12nso hf, formatAts12nso]
  split
  · exact (hfmt.mpr ‹_›).symm
  · cases f with
    | f32 => rfl
    | f64 => exact absurd (hfmt.mp rfl) ‹_›

/-- R184: the instance that the row gives. -/
theorem Ats12nsoRow.resultBank_eq {op : ATOp} {s : State} {i : Bank} {f : ParFmt} (h : Ats12nsoRow op s i f)
    (ha : Admitted s) : resultBank op s = i := by
  obtain ⟨hf, -, ⟨hp, -, rfl⟩ | ⟨hh, rfl⟩⟩ := h
  · rw [resultBank, target_of_ats12nso hf, if_neg (hp.not_inHyp ha)]
  · rw [resultBank, target_of_ats12nso hf, if_pos hh]

/-- No place of the row is a Non-secure PL1 mode, where a stage 2 fault would take the Hyp Trap exception (R210). -/
theorem Ats12nsoRow.not_nonSecurePL1 {op : ATOp} {s : State} {i : Bank} {f : ParFmt} (h : Ats12nsoRow op s i f) :
    ¬ NonSecurePL1 s := by
  rintro ⟨hs, -, hnh⟩
  obtain ⟨-, -, ⟨hp, -⟩ | ⟨hh, -⟩⟩ := h
  · cases hp.1.symm.trans hs
  · exact hnh hh

/-! ### An answer that is reported -/

theorem completeAT_ok (va : Word) (f : ParFmt) (i : Bank) (oa : OutAddr) (a : Attrs) (s : State) :
    completeAT va f i (.ok oa a) s = reportInPar i f (.ok oa a) s := rfl

/-- R202: outside the Non-secure PL1 modes an MMU fault of either stage is reported in PAR. -/
theorem completeAT_fault_of_not_nonSecurePL1 {s : State} (h : ¬ NonSecurePL1 s) (va : Word) (f : ParFmt) (i : Bank)
    (st : Stage) (w : Bool) (c : BitVec 6) (ipa : OutAddr) :
    completeAT va f i (.fault st w c ipa) s = reportInPar i f (.fault st w c) s :=
  if_neg fun hn => h hn.1

/-- An instruction that executes and whose well-formed answer is a result for PAR completes with that result (R110, R189,
R203). -/
theorem atExecute_reports {op : ATOp} {r : Reg} {s : State} {ans : ATAnswer} {res : ParResult}
    (hx : avail op s = .execute) (hans : s.answer (request op (s.readX r) s) = ans)
    (hw : wellFormedAnswer s.cfg (request op (s.readX r) s) ans = true)
    (hc : completeAT (s.readX r) (format op s) (resultBank op s) ans s.asked =
      reportInPar (resultBank op s) (format op s) res s.asked)
    (hp : s.pc.toNat + 4 < addressSpace) :
    ∃ t, atExecute op r s = .next t ∧ ReportFrame s t (resultBank op s) ∧
      HoldsResult s t (resultBank op s) res (format op s) := by
  subst hans
  have hp' : s.asked.pc.toNat + 4 < addressSpace := by simpa using hp
  refine ⟨_, ?_, (reportedState_frame _ _ _ _).of_asked, (reportedState_holds _ _ _ _).of_asked⟩
  rw [atExecute_of_execute hx hw, hc]
  exact reportInPar_of_no_wrap _ _ _ _ hp'

/-! ### The mode, which an instruction passes through -/

/-- The same state in another mode. -/
def State.withMode (s : State) (m : Mode) : State := { s with mode := m }

section
variable (s : State) (m : Mode)

@[simp] theorem State.withMode_cfg : (s.withMode m).cfg = s.cfg := rfl

@[simp] theorem State.withMode_mode : (s.withMode m).mode = m := rfl

@[simp] theorem State.withMode_answers : (s.withMode m).answers = s.answers := rfl

@[simp] theorem readX_withMode (r : Reg) : (s.withMode m).readX r = s.readX r := rfl

@[simp] theorem answer_withMode (req : ATRequest) : (s.withMode m).answer req = s.answer req := rfl

/-- No request names the mode (R104). -/
@[simp] theorem request_withMode (op : ATOp) (va : Word) : request op va (s.withMode m) = request op va s := rfl

/-- The format of ATS12NSO** does not depend on the mode (R182). -/
@[simp] theorem formatAts12nso_withMode : formatAts12nso (s.withMode m) = formatAts12nso s := rfl

theorem asked_withMode : (s.withMode m).asked = s.asked.withMode m := by
  unfold State.asked
  rw [State.withMode_answers]
  cases s.answers <;> rfl

theorem markDirty_withMode (i : Bank) : (s.withMode m).markDirty i = (s.markDirty i).withMode m := by
  unfold State.markDirty
  rw [State.withMode_cfg]
  split <;> rfl

theorem writeResult_withMode (i : Bank) (f : ParFmt) (r : ParResult) :
    writeResult i f r (s.withMode m) = (writeResult i f r s).withMode m := by
  cases f with
  | f64 => rfl
  | f32 => cases h : fitsF32 r <;> simp only [writeResult, afterLow32, low32, h] <;> rfl

theorem complete_withMode : (s.withMode m).complete = mapNext (·.withMode m) s.complete :=
  complete_commutes (f := (·.withMode m)) rfl rfl

theorem reportInPar_withMode (i : Bank) (f : ParFmt) (r : ParResult) :
    reportInPar i f r (s.withMode m) = mapNext (·.withMode m) (reportInPar i f r s) := by
  simp only [reportInPar, writeResult_withMode, markDirty_withMode, complete_withMode]

theorem recordSyncAbort_withMode (va : Word) (route : AbortRoute) :
    recordSyncAbort va route (s.withMode m) = (recordSyncAbort va route s).withMode m := by
  cases route <;> rfl

theorem recordAsyncAbort_withMode (route : AbortRoute) :
    recordAsyncAbort route (s.withMode m) = (recordAsyncAbort route s).withMode m := by
  cases route <;> rfl

theorem unknownPar_markDirty_withMode (i : Bank) :
    ((s.withMode m).unknownPar i).markDirty i = ((s.unknownPar i).markDirty i).withMode m :=
  markDirty_withMode (s.unknownPar i) m i

theorem syncAbortOnAT_withMode (va : Word) (i : Bank) :
    syncAbortOnAT va i (s.withMode m) = mapNext (·.withMode m) (syncAbortOnAT va i s) := by
  simp only [syncAbortOnAT, unknownPar_markDirty_withMode, recordSyncAbort_withMode]
  rfl

theorem asyncAbortOnAT_withMode (i : Bank) :
    asyncAbortOnAT i (s.withMode m) = mapNext (·.withMode m) (asyncAbortOnAT i s) := by
  simp only [asyncAbortOnAT, unknownPar_markDirty_withMode, recordAsyncAbort_withMode]
  rfl

end

/-- In Secure state the completion of a translation does not depend on the mode: only the Hyp Trap exception asks for it,
and that is taken in Non-secure state (R201, R210). -/
theorem completeAT_withMode_of_secure {s : State} (hs : s.sec = .secure) (m : Mode) (va : Word) (f : ParFmt) (i : Bank)
    (ans : ATAnswer) : completeAT va f i ans (s.withMode m) = mapNext (·.withMode m) (completeAT va f i ans s) := by
  have hn : ∀ u : State, u.sec = .secure → ¬ NonSecurePL1 u := fun u hu h => by cases hu.symm.trans h.1
  cases ans with
  | ok oa a => exact reportInPar_withMode ..
  | fault st w c ipa =>
    rw [completeAT_fault_of_not_nonSecurePL1 (hn (s.withMode m) hs), completeAT_fault_of_not_nonSecurePL1 (hn s hs)]
    exact reportInPar_withMode ..
  | syncExternalAbort => exact syncAbortOnAT_withMode ..
  | asyncExternalAbort => exact asyncAbortOnAT_withMode ..

/-- Outside Hyp mode the result of an ATS12NSO** instruction goes to the Secure bank, whatever the mode (R184). -/
theorem resultBank_withMode_of_ats12nso {op : ATOp} (hf : op.family = .ats12nso) {s : State} {m : Mode}
    (hs : ¬ InHyp s) (hm : m ≠ .hyp) : resultBank op (s.withMode m) = resultBank op s := by
  have hm' : ¬ InHyp (s.withMode m) := hm
  rw [resultBank, resultBank, target_of_ats12nso hf, target_of_ats12nso hf, if_neg hs, if_neg hm', State.withMode_cfg]

/-- Between modes of Secure state other than Hyp mode, an ATS12NSO** instruction makes the same translation. -/
theorem translate_withMode_of_ats12nso {op : ATOp} (hf : op.family = .ats12nso) (r : Reg) {s : State} {m : Mode}
    (hsec : s.sec = .secure) (hs : ¬ InHyp s) (hm : m ≠ .hyp) :
    translate op r (s.withMode m) = mapNext (·.withMode m) (translate op r s) := by
  have hask : s.asked.sec = .secure := by simpa using hsec
  simp only [translate, State.withMode_cfg, readX_withMode, answer_withMode, request_withMode, format_of_ats12nso hf,
    formatAts12nso_withMode, resultBank_withMode_of_ats12nso hf hs hm, asked_withMode,
    completeAT_withMode_of_secure hask]
  split <;> rfl

/-! ### The obligations -/

/-- Settles O16: in each place of the row the instruction executes, and its answer is reported in PAR. -/
theorem ats12nsoReportsItsResultInPar : Obligations.Ats12nsoReportsItsResultInPar := by
  intro i op r s b f hi ha hrow hp
  have hx := hrow.executes ha
  have hn : ¬ NonSecurePL1 s.asked := by simpa [NonSecurePL1] using hrow.not_nonSecurePL1
  rw [exec_of_atForm hi, ← hrow.resultBank_eq ha, ← hrow.format_eq]
  exact ⟨fun oa a hans => atExecute_reports hx hans rfl (completeAT_ok ..) hp,
    fun st w c ipa hans hw =>
      atExecute_reports hx hans hw (completeAT_fault_of_not_nonSecurePL1 hn ..) hp⟩

/-- Settles O19: in each of these modes, Monitor mode among them, the instruction executes, and the translation is the
same. -/
theorem deprecatedUseBehavesAsInMonitorMode : Obligations.DeprecatedUseBehavesAsInMonitorMode := by
  intro i op r s m hi hf hs h3 hu hh
  have hx : ∀ n : Mode, n ≠ .user → atExecute op r (s.withMode n) = translate op r (s.withMode n) := fun n hn => by
    rw [atExecute, avail_ats12nso_of_securePL1 hf (s := s.withMode n) ⟨hs, hn⟩ h3]
  rw [exec_of_atForm hi, exec_of_atForm hi]
  calc atExecute op r (s.withMode m)
      = translate op r ((s.withMode .monitor).withMode m) := hx m hu
    _ = mapNext (·.withMode m) (translate op r (s.withMode .monitor)) :=
        translate_withMode_of_ats12nso hf r (s := s.withMode .monitor) hs (by simp) hh
    _ = mapNext (·.withMode m) (atExecute op r (s.withMode .monitor)) := by rw [hx .monitor (by decide)]

end Sys2Proof.Machine
end

section
/-! PROOF. The ATS1H* instructions: the 64-bit format result each reports in PAR (O17). -/

namespace Sys2Proof.Machine

/-! ### The row of an ATS1H* instruction -/

theorem format_of_ats1h {op : ATOp} (hf : op.family = .ats1h) (s : State) : format op s = .f64 := by
  simp only [format, hf]

theorem target_of_ats1h {op : ATOp} (hf : op.family = .ats1h) (s : State) :
    target op s = if InMonitor s then .S else .NS := by
  simp only [target, hf]

theorem InHyp.not_inMonitor {s : State} (hh : InHyp s) : ¬ InMonitor s := by simp [InMonitor, hh]

/-- R184: the instance that the row gives. -/
theorem Ats1hRow.resultBank_eq {op : ATOp} {s : State} {i : Bank} {f : ParFmt} (h : Ats1hRow op s i f) :
    resultBank op s = i := by
  obtain ⟨hf, -, -, ⟨hm, rfl⟩ | ⟨hh, rfl⟩⟩ := h
  · rw [resultBank, target_of_ats1h hf, if_pos hm]
  · rw [resultBank, target_of_ats1h hf, if_neg hh.not_inMonitor]

/-! ### A stage 1 answer that is reported -/

/-- R202: a stage 1 MMU fault is reported in PAR in every mode, since the Hyp Trap exception is one of stage 2 (R210). -/
theorem completeAT_stage1_fault (va : Word) (f : ParFmt) (i : Bank) (w : Bool) (c : BitVec 6) (ipa : OutAddr)
    (s : State) : completeAT va f i (.fault .one w c ipa) s = reportInPar i f (.fault .one w c) s :=
  if_neg fun hn => Stage.noConfusion hn.2

/-- R109: a stage 1 fault off the walk answers every request. -/
theorem stage1_fault_off_walk_wellFormed (c : Cfg) (req : ATRequest) (code : BitVec 6) (ipa : OutAddr) :
    wellFormedAnswer c req (.fault .one false code ipa) = true := rfl

/-- In each place of its row an ATS1H* instruction completes with the packed 64-bit format result in the instance of the
row, once its well-formed answer is a result for PAR (R160, R183, R189). -/
theorem Ats1hRow.reports {op : ATOp} {r : Reg} {s : State} {b : Bank} {f : ParFmt} {ans : ATAnswer} {res : ParResult}
    (h : Ats1hRow op s b f) (hp : s.pc.toNat + 4 < addressSpace)
    (hans : s.answer (request op (s.readX r) s) = ans)
    (hw : wellFormedAnswer s.cfg (request op (s.readX r) s) ans = true)
    (hc : completeAT (s.readX r) .f64 b ans s.asked = reportInPar b .f64 res s.asked) :
    ∃ t, atExecute op r s = .next t ∧ ReportFrame s t b ∧ t.par.get b = packPAR64 s.cfg res := by
  have hrep := atExecute_reports (r := r) (ans := ans) (res := res) h.executes hans hw
  rw [h.resultBank_eq, format_of_ats1h h.1] at hrep
  exact hrep hc hp

/-! ### The obligation -/

/-- Settles O17: a success and a stage 1 fault off the walk are both well-formed answers that are reported in PAR. -/
theorem ats1hReportsItsResultInPar : Obligations.Ats1hReportsItsResultInPar := by
  intro i op r s b f hi _ hrow hp
  rw [exec_of_atForm hi]
  exact ⟨fun oa a hans => hrow.reports hp hans rfl (completeAT_ok ..),
    fun c ipa hans =>
      hrow.reports hp hans (stage1_fault_off_walk_wellFormed ..) (completeAT_stage1_fault ..)⟩

end Sys2Proof.Machine
end

section
/-! PROOF. The direct accesses to PAR and ISB: the instance an access reaches, the result and the frame of each, and the
value that a 64-bit write hands to a 64-bit read (O28, O29, O30, O31, O33, O27, O32). -/

namespace Sys2Proof.Machine

/-! ### The instance -/

theorem directBank_of_inMonitor {s : State} (hm : InMonitor s) : directBank s = if s.scrNS = 1 then .NS else .S :=
  if_pos hm

theorem directBank_of_not_inMonitor {s : State} (hm : ¬ InMonitor s) : directBank s = curBank s := if_neg hm

theorem curBank_of_secure {s : State} (h : s.sec = .secure) : curBank s = .S := if_pos h

theorem curBank_of_nonSecure {s : State} (h : s.sec = .nonSecure) : curBank s = .NS := by
  simp only [curBank, h, reduceCtorEq, if_false]

/-- The instance a direct access reaches is settled by the control state. -/
theorem accessedBank_of_sameControl {s t : State} (h : SameControl s t) : accessedBank t = accessedBank s := by
  simp only [accessedBank, directBank, curBank, InMonitor, h.cfg, h.mode, h.sec, h.scrNS]

/-! ### Reading PAR -/

theorem State.readPar_of_clean {s : State} {i : Bank} (h : s.parDirty.get i = false) : s.readPar i = s.par.get i := by
  simp [State.readPar, h]

theorem State.readPar_of_pending {s : State} {i : Bank} (h : s.parDirty.get i = true) :
    s.readPar i = Config.unknown 64 s.draws := by
  simp [State.readPar, State.unknown, h]

theorem State.readX_writePair_low (s : State) {t t2 : Reg} (h : t ≠ t2) (v : DWord) :
    (s.writePair t t2 v).readX t = v.low :=
  (State.readX_writeX_of_ne _ h _).trans (State.readX_writeX_same ..)

theorem State.readX_writePair_high (s : State) (t t2 : Reg) (v : DWord) : (s.writePair t t2 v).readX t2 = v.high :=
  State.readX_writeX_same ..

theorem State.readX_writePair_of_ne (s : State) {t t2 u : Reg} (h : u ≠ t) (h2 : u ≠ t2) (v : DWord) :
    (s.writePair t t2 v).readX u = s.readX u :=
  (State.readX_writeX_of_ne _ h2 _).trans (State.readX_writeX_of_ne _ h _)

/-- A read of PAR leaves the general registers alone until its result is written. -/
theorem State.readX_afterReadPar (s : State) (i : Bank) (u : Reg) : (s.afterReadPar i).readX u = s.readX u := by
  simp [State.readX]

/-! ### The halves of a written value -/

/-- Bits [31:0] of a pair are its first operand (R85). -/
theorem State.readPair_low (s : State) (t t2 : Reg) : (s.readPair t t2).low = s.readX t :=
  BitVec.extractLsb'_append_eq_right (a := s.readX t2)

/-- Bits [63:32] of a pair are its second operand (R85). -/
theorem State.readPair_high (s : State) (t t2 : Reg) : (s.readPair t t2).high = s.readX t2 :=
  BitVec.extractLsb'_append_eq_left (b := s.readX t)

/-! ### An access at PL1 or higher -/

section
variable {s : State} (h0 : ¬ AtEL0 s)
include h0

/-- R170. -/
theorem exec_parRead32 (t : Reg) : exec (.parRead32 t) s =
    ((s.afterReadPar (accessedBank s)).writeX t (s.readPar (accessedBank s)).low).complete := if_neg h0

/-- R171. -/
theorem exec_parWrite32 (t : Reg) : exec (.parWrite32 t) s =
    (s.directWritePar (accessedBank s) ((s.par.get (accessedBank s)).high ++ s.readX t)).complete := if_neg h0

/-- R172. -/
theorem exec_parRead64 {t t2 : Reg} (ht : t ≠ t2) : exec (.parRead64 t t2) s =
    ((s.afterReadPar (accessedBank s)).writePair t t2 (s.readPar (accessedBank s))).complete :=
  (if_neg ht).trans (if_neg h0)

/-- R173. -/
theorem exec_parWrite64 (t t2 : Reg) : exec (.parWrite64 t t2) s =
    (s.directWritePar (accessedBank s) (s.readPair t t2)).complete := if_neg h0

end


/-- Where `pc + 4` wraps, completing is refused (R23, decision D3). -/
theorem State.complete_of_wrap {s : State} (h : addressSpace ≤ s.pc.toNat + 4) : s.complete = .refused .pcWraps :=
  if_neg (Nat.not_lt.mpr h)

/-- A well-formed direct access to PAR or an ISB completes at PL1 or higher where `pc + 4` does not wrap. -/
theorem access_completes {i : Instr} {s : State} (hi : atForm i = none) (hw : i.wellFormed = true) (h0 : ¬ AtEL0 s)
    (hp : s.pc.toNat + 4 < addressSpace) : ∃ t, exec i s = .next t ∧ AccessFrame s t := by
  have hx : ∃ u : State, u.pc = s.pc ∧ exec i s = u.complete := by
    cases i with
    | parRead32 t => exact ⟨_, by simp, exec_parRead32 h0 t⟩
    | parWrite32 t => exact ⟨_, by simp, exec_parWrite32 h0 t⟩
    | parRead64 t t2 =>
      have ht : t ≠ t2 := by simpa [Instr.wellFormed] using hw
      exact ⟨_, by simp, exec_parRead64 h0 ht⟩
    | parWrite64 t t2 => exact ⟨_, by simp, exec_parWrite64 h0 t t2⟩
    | isb => exact ⟨s.synchronize, rfl, rfl⟩
    | _ => cases hi
  obtain ⟨u, hpc, hu⟩ := hx
  have hnext := hu.trans (u.complete_of_no_wrap (hpc ▸ hp))
  rcases access_eq_next hi hnext with ⟨h, -⟩ | ⟨-, hf, -⟩
  · exact absurd h h0
  · exact ⟨_, hnext, hf⟩

/-! ### What each access leaves -/

/-- What a 32-bit read that completes leaves of PAR and of the general registers (R170). -/
theorem parRead32_eq_next {t : Reg} {s s' : State} (h0 : ¬ AtEL0 s) (h : exec (.parRead32 t) s = .next s') :
    s'.par = s.par ∧ s'.parDirty = s.parDirty ∧ s'.readX t = (s.readPar (accessedBank s)).low ∧
      ∀ u, u ≠ t → s'.readX u = s.readX u := by
  rw [exec_parRead32 h0] at h
  obtain ⟨-, rfl⟩ := State.complete_eq_next h
  refine ⟨by simp, by simp, State.readX_writeX_same .., fun u hu => ?_⟩
  exact (State.readX_writeX_of_ne _ hu _).trans (State.readX_afterReadPar ..)

/-- What a 64-bit read that completes leaves of PAR and of the general registers (R172): its two operands differ (R85), and
both receive halves of one value. -/
theorem parRead64_eq_next {t t2 : Reg} {s s' : State} (h0 : ¬ AtEL0 s) (h : exec (.parRead64 t t2) s = .next s') :
    s'.par = s.par ∧ s'.parDirty = s.parDirty ∧ s'.readX t = (s.readPar (accessedBank s)).low ∧
      s'.readX t2 = (s.readPar (accessedBank s)).high ∧ ∀ u, u ≠ t → u ≠ t2 → s'.readX u = s.readX u := by
  have ht : t ≠ t2 := fun e => by cases (exec_of_not_wellFormed (by simp [Instr.wellFormed, e]) s).symm.trans h
  rw [exec_parRead64 h0 ht] at h
  obtain ⟨-, rfl⟩ := State.complete_eq_next h
  refine ⟨by simp, by simp, State.readX_writePair_low _ ht _, State.readX_writePair_high .., fun u hu hu2 => ?_⟩
  exact (State.readX_writePair_of_ne _ hu hu2 _).trans (State.readX_afterReadPar ..)

/-- What a direct write of `v` to PAR that completes has done (R171, R173, R175): the instance it reaches holds `v`, or a
draw while a result is pending there. -/
structure DirectWrite (s t : State) (v : DWord) : Prop where
  x : t.x = s.x
  parDirty : t.parDirty = s.parDirty
  otherPar : t.par.get (accessedBank s).other = s.par.get (accessedBank s).other
  clean : s.parDirty.get (accessedBank s) = false → t.par.get (accessedBank s) = v
  pending : s.parDirty.get (accessedBank s) = true → ∃ n, t.par.get (accessedBank s) = Config.unknown 64 n

theorem DirectWrite.of_complete {s t : State} {v : DWord}
    (h : (s.directWritePar (accessedBank s) v).complete = .next t) : DirectWrite s t v := by
  obtain ⟨-, rfl⟩ := State.complete_eq_next h
  exact ⟨by simp, by simp, by simp, fun hc => by simp [hc], fun hd => ⟨s.draws, by simp [hd]⟩⟩

/-- A 32-bit write is a direct write of the register below the high word that is there (R171). -/
theorem parWrite32_eq_next {t : Reg} {s s' : State} (h0 : ¬ AtEL0 s) (h : exec (.parWrite32 t) s = .next s') :
    DirectWrite s s' ((s.par.get (accessedBank s)).high ++ s.readX t) :=
  .of_complete ((exec_parWrite32 h0 t).symm.trans h)

/-- A 64-bit write is a direct write of the pair (R173). -/
theorem parWrite64_eq_next {t t2 : Reg} {s s' : State} (h0 : ¬ AtEL0 s)
    (h : exec (.parWrite64 t t2) s = .next s') : DirectWrite s s' (s.readPair t t2) :=
  .of_complete ((exec_parWrite64 h0 t t2).symm.trans h)

/-! ### The obligations -/

/-- Settles O28: the read completes, and its register receives the low word of what `ReadPAR` gives. -/
theorem parRead32GivesTheLowWord : Obligations.ParRead32GivesTheLowWord := by
  intro t s h0 hp
  obtain ⟨s', hx, hf⟩ := access_completes (i := .parRead32 t) rfl rfl h0 hp
  obtain ⟨hpar, hd, hlow, hother⟩ := parRead32_eq_next h0 hx
  refine ⟨s', hx, hf, hpar, hd, hother, fun hc => ?_, fun hn => ⟨s.draws, ?_⟩⟩
  · rw [hlow, State.readPar_of_clean hc]; rfl
  · rw [hlow, State.readPar_of_pending hn]; rfl

/-- Settles O29: the read completes, and its registers receive the two halves of what one `ReadPAR` gives. -/
theorem parRead64GivesBothWords : Obligations.ParRead64GivesBothWords := by
  intro t t2 s ht h0 hp
  obtain ⟨s', hx, hf⟩ := access_completes (i := .parRead64 t t2) rfl (by simp [Instr.wellFormed, ht]) h0 hp
  obtain ⟨hpar, hd, hlow, hhigh, hother⟩ := parRead64_eq_next h0 hx
  refine ⟨s', hx, hf, hpar, hd, hother, fun hc => ?_, fun hn => ⟨s.draws, ?_⟩⟩
  · rw [hlow, hhigh, State.readPar_of_clean hc]; exact ⟨rfl, rfl⟩
  · rw [hlow, hhigh, State.readPar_of_pending hn]; exact ⟨rfl, rfl⟩

/-- Settles O30: the write completes, and the value it writes has the register as its low word and the earlier high word. -/
theorem parWrite32ReplacesTheLowWord : Obligations.ParWrite32ReplacesTheLowWord := by
  intro t s h0 hp
  obtain ⟨s', hx, hf⟩ := access_completes (i := .parWrite32 t) rfl rfl h0 hp
  have hw := parWrite32_eq_next h0 hx
  refine ⟨s', hx, hf, hw.x, hw.parDirty, hw.otherPar, fun hc => ?_, hw.pending⟩
  rw [hw.clean hc]
  exact ⟨BitVec.extractLsb'_append_eq_right, BitVec.extractLsb'_append_eq_left⟩

/-- Settles O31: the write completes, and the value it writes is the pair. -/
theorem parWrite64ReplacesBothWords : Obligations.ParWrite64ReplacesBothWords := by
  intro t t2 s h0 hp
  obtain ⟨s', hx, hf⟩ := access_completes (i := .parWrite64 t t2) rfl rfl h0 hp
  have hw := parWrite64_eq_next h0 hx
  refine ⟨s', hx, hf, hw.x, hw.parDirty, hw.otherPar, fun hc => ?_, hw.pending⟩
  rw [hw.clean hc]
  exact ⟨s.readPair_low t t2, s.readPair_high t t2⟩

/-- Settles O33: the write leaves the mode, the instance reached and its flag as they were, so the read gives the halves of
the pair that was written. -/
theorem write64ThenRead64 : Obligations.Write64ThenRead64 := by
  intro t t2 u u2 s s1 s2 h0 hc h1 h2
  have hctl := exec_sameControl h1
  have hw := parWrite64_eq_next h0 h1
  have h0' : ¬ AtEL0 s1 := by rwa [AtEL0, hctl.mode]
  have hread : s1.readPar (accessedBank s1) = s.readPair t t2 := by
    rw [accessedBank_of_sameControl hctl, State.readPar_of_clean (by rw [hw.parDirty, hc]), hw.clean hc]
  obtain ⟨-, -, hlow, hhigh, -⟩ := parRead64_eq_next h0' h2
  rw [hlow, hhigh, hread]
  exact ⟨s.readPair_low t t2, s.readPair_high t t2⟩

/-- Settles O27: the bank a direct access names, in Monitor mode and outside it. -/
theorem instanceOfADirectAccess : Obligations.InstanceOfADirectAccess := by
  intro s
  refine ⟨fun hm hns => ?_, fun hm hns => ?_, fun hm hs => ?_, fun hm hs => ?_⟩
  · rw [accessedBank, directBank_of_inMonitor hm, if_pos hns]
  · rw [accessedBank, directBank_of_inMonitor hm, if_neg hns]
  · rw [accessedBank, directBank_of_not_inMonitor hm, curBank_of_secure hs]
  · rw [accessedBank, directBank_of_not_inMonitor hm, curBank_of_nonSecure hs]

/-- Settles O32: ISB synchronizes and then completes, which a wrap of `pc` refuses. -/
theorem isbClearsBothFlags : Obligations.IsbClearsBothFlags := by
  intro s
  exact ⟨s.synchronize.complete_of_no_wrap, State.complete_of_wrap (s := s.synchronize)⟩

end Sys2Proof.Machine
end

section
/-! PROOF. The two instances of PAR: in Non-secure state nothing reaches the Secure one, and no instruction writes both
(O43, O41). -/

namespace Sys2Proof.Machine

/-! ### The Secure instance, which an instruction of Non-secure state passes through -/

section
variable (s : State) (v : DWord)

@[simp] theorem State.withSecurePar_cfg : (s.withSecurePar v).cfg = s.cfg := rfl

@[simp] theorem State.withSecurePar_parDirty : (s.withSecurePar v).parDirty = s.parDirty := rfl

@[simp] theorem State.withSecurePar_answers : (s.withSecurePar v).answers = s.answers := rfl

@[simp] theorem readX_withSecurePar (r : Reg) : (s.withSecurePar v).readX r = s.readX r := rfl

@[simp] theorem answer_withSecurePar (req : ATRequest) : (s.withSecurePar v).answer req = s.answer req := rfl

/-- Availability, request, format and instance are computed from the control state (R103, R104, R181 to R184). -/
@[simp] theorem avail_withSecurePar (op : ATOp) : avail op (s.withSecurePar v) = avail op s := rfl

@[simp] theorem request_withSecurePar (op : ATOp) (va : Word) :
    request op va (s.withSecurePar v) = request op va s := rfl

@[simp] theorem format_withSecurePar (op : ATOp) : format op (s.withSecurePar v) = format op s := rfl

@[simp] theorem resultBank_withSecurePar (op : ATOp) : resultBank op (s.withSecurePar v) = resultBank op s := rfl

@[simp] theorem accessedBank_withSecurePar : accessedBank (s.withSecurePar v) = accessedBank s := rfl

theorem complete_withSecurePar : (s.withSecurePar v).complete = mapNext (·.withSecurePar v) s.complete :=
  complete_commutes (f := (·.withSecurePar v)) rfl rfl

theorem writeX_withSecurePar (t : Reg) (w : Word) :
    (s.withSecurePar v).writeX t w = (s.writeX t w).withSecurePar v := rfl

theorem writePair_withSecurePar (t t2 : Reg) (w : DWord) :
    (s.withSecurePar v).writePair t t2 w = (s.writePair t t2 w).withSecurePar v := rfl

theorem readPar_withSecurePar : (s.withSecurePar v).readPar .NS = s.readPar .NS := rfl

theorem afterReadPar_withSecurePar (i : Bank) :
    (s.withSecurePar v).afterReadPar i = (s.afterReadPar i).withSecurePar v := by
  unfold State.afterReadPar
  rw [State.withSecurePar_parDirty]
  split <;> rfl

theorem directWritePar_withSecurePar (w : DWord) :
    (s.withSecurePar v).directWritePar .NS w = (s.directWritePar .NS w).withSecurePar v := by
  unfold State.directWritePar
  rw [State.withSecurePar_parDirty]
  split <;> rfl

theorem asked_withSecurePar : (s.withSecurePar v).asked = s.asked.withSecurePar v := by
  unfold State.asked
  rw [State.withSecurePar_answers]
  cases s.answers <;> rfl

theorem markDirty_withSecurePar (i : Bank) :
    (s.withSecurePar v).markDirty i = (s.markDirty i).withSecurePar v := by
  unfold State.markDirty
  rw [State.withSecurePar_cfg]
  split <;> rfl

theorem writeResult_withSecurePar (f : ParFmt) (r : ParResult) :
    writeResult .NS f r (s.withSecurePar v) = (writeResult .NS f r s).withSecurePar v := by
  cases f with
  | f64 => rfl
  | f32 => cases h : fitsF32 r <;> simp only [writeResult, afterLow32, low32, h] <;> rfl

theorem reportInPar_withSecurePar (f : ParFmt) (r : ParResult) :
    reportInPar .NS f r (s.withSecurePar v) = mapNext (·.withSecurePar v) (reportInPar .NS f r s) := by
  simp only [reportInPar, writeResult_withSecurePar, markDirty_withSecurePar, complete_withSecurePar]

theorem recordSyncAbort_withSecurePar (va : Word) (route : AbortRoute) :
    recordSyncAbort va route (s.withSecurePar v) = (recordSyncAbort va route s).withSecurePar v := by
  cases route <;> rfl

theorem recordAsyncAbort_withSecurePar (route : AbortRoute) :
    recordAsyncAbort route (s.withSecurePar v) = (recordAsyncAbort route s).withSecurePar v := by
  cases route <;> rfl

theorem unknownPar_markDirty_withSecurePar :
    ((s.withSecurePar v).unknownPar .NS).markDirty .NS = ((s.unknownPar .NS).markDirty .NS).withSecurePar v :=
  markDirty_withSecurePar (s.unknownPar .NS) v .NS

theorem hypTrapOnAT_withSecurePar (va : Word) (ipa : OutAddr) :
    hypTrapOnAT va .NS ipa (s.withSecurePar v) = mapNext (·.withSecurePar v) (hypTrapOnAT va .NS ipa s) := by
  simp only [hypTrapOnAT, unknownPar_markDirty_withSecurePar]
  rfl

theorem syncAbortOnAT_withSecurePar (va : Word) :
    syncAbortOnAT va .NS (s.withSecurePar v) = mapNext (·.withSecurePar v) (syncAbortOnAT va .NS s) := by
  simp only [syncAbortOnAT, unknownPar_markDirty_withSecurePar, recordSyncAbort_withSecurePar]
  rfl

theorem asyncAbortOnAT_withSecurePar :
    asyncAbortOnAT .NS (s.withSecurePar v) = mapNext (·.withSecurePar v) (asyncAbortOnAT .NS s) := by
  simp only [asyncAbortOnAT, unknownPar_markDirty_withSecurePar, recordAsyncAbort_withSecurePar]
  rfl

/-- A translation that completes in the Non-secure instance passes the Secure one through (R201). -/
theorem completeAT_withSecurePar (va : Word) (f : ParFmt) (ans : ATAnswer) :
    completeAT va f .NS ans (s.withSecurePar v) = mapNext (·.withSecurePar v) (completeAT va f .NS ans s) := by
  cases ans with
  | ok oa a => exact reportInPar_withSecurePar ..
  | fault st w c ipa =>
    by_cases hn : NonSecurePL1 s ∧ st = .two
    · calc completeAT va f .NS (.fault st w c ipa) (s.withSecurePar v)
          = hypTrapOnAT va .NS ipa (s.withSecurePar v) := if_pos hn
        _ = mapNext (·.withSecurePar v) (hypTrapOnAT va .NS ipa s) := hypTrapOnAT_withSecurePar ..
        _ = _ := congrArg _ (if_pos hn).symm
    · calc completeAT va f .NS (.fault st w c ipa) (s.withSecurePar v)
          = reportInPar .NS f (.fault st w c) (s.withSecurePar v) := if_neg hn
        _ = mapNext (·.withSecurePar v) (reportInPar .NS f (.fault st w c) s) := reportInPar_withSecurePar ..
        _ = _ := congrArg _ (if_neg hn).symm
  | syncExternalAbort => exact syncAbortOnAT_withSecurePar ..
  | asyncExternalAbort => exact asyncAbortOnAT_withSecurePar ..

end

/-! ### The instance that Non-secure state reaches -/

/-- Where an address translation instruction executes in Non-secure state, its result goes to the Non-secure instance
(R103, R184): the other one is for the Secure PL1 modes. -/
theorem resultBank_of_nonSecure {op : ATOp} {s : State} (hs : s.sec = .nonSecure) (hm : ¬ InMonitor s)
    (hx : avail op s = .execute) : resultBank op s = .NS := by
  suffices target op s = .NS by rw [resultBank, this, parIdx_NS]
  by_cases hh : InHyp s
  · cases hf : op.family with
    | ats1c => simp only [target, hf, if_pos hh]
    | ats12nso => simp only [target_of_ats12nso hf, if_pos hh]
    | ats1h => simp only [target_of_ats1h hf, if_neg hm]
  · have h0 : ¬ AtEL0 s := fun h0 => by cases (avail_of_atEL0 op h0).symm.trans hx
    have hf := family_of_execute_nonSecurePL1 hx ⟨hs, h0, hh⟩ hm
    simp only [target, hf, if_neg hh, curBank_of_nonSecure hs]

/-- A direct access in Non-secure state reaches the Non-secure instance (R174). -/
theorem accessedBank_of_nonSecure {s : State} (hs : s.sec = .nonSecure) (hm : ¬ InMonitor s) :
    accessedBank s = .NS := by
  rw [accessedBank, directBank_of_not_inMonitor hm, curBank_of_nonSecure hs, parIdx_NS]

theorem not_inMonitor_of_nonSecure {s : State} (ha : Admitted s) (hs : s.sec = .nonSecure) : ¬ InMonitor s :=
  fun hm => by cases hs.symm.trans (ha.1 hm).2

/-- A translation for the Non-secure instance passes the Secure one through (R102). -/
theorem translate_withSecurePar {op : ATOp} {s : State} (hb : resultBank op s = .NS) (r : Reg) (v : DWord) :
    translate op r (s.withSecurePar v) = mapNext (·.withSecurePar v) (translate op r s) := by
  simp only [translate, State.withSecurePar_cfg, readX_withSecurePar, answer_withSecurePar, request_withSecurePar,
    format_withSecurePar, resultBank_withSecurePar, hb, asked_withSecurePar, completeAT_withSecurePar]
  split <;> rfl

/-- An address translation instruction of Non-secure state passes the Secure instance through. -/
theorem atExecute_withSecurePar {s : State} (hs : s.sec = .nonSecure) (hm : ¬ InMonitor s) (op : ATOp) (r : Reg)
    (v : DWord) : atExecute op r (s.withSecurePar v) = mapNext (·.withSecurePar v) (atExecute op r s) := by
  cases hx : avail op s with
  | undefined => simp only [atExecute, avail_withSecurePar, hx]; rfl
  | trapToEL3 => simp only [atExecute, avail_withSecurePar, hx]; rfl
  | unpredictable => simp only [atExecute, avail_withSecurePar, hx]; rfl
  | execute =>
    simp only [atExecute, avail_withSecurePar, hx]
    exact translate_withSecurePar (resultBank_of_nonSecure hs hm hx) r v

/-- A direct access of Non-secure state, or an ISB, passes the Secure instance through. -/
theorem access_withSecurePar {i : Instr} {s : State} (hi : atForm i = none) (hs : s.sec = .nonSecure)
    (hm : ¬ InMonitor s) (h0 : ¬ AtEL0 s) (v : DWord) :
    exec i (s.withSecurePar v) = mapNext (·.withSecurePar v) (exec i s) := by
  have hb := accessedBank_of_nonSecure hs hm
  have h0' : ¬ AtEL0 (s.withSecurePar v) := h0
  cases i with
  | parRead32 t =>
    rw [exec_parRead32 h0, exec_parRead32 h0', accessedBank_withSecurePar, hb, afterReadPar_withSecurePar,
      readPar_withSecurePar, writeX_withSecurePar, complete_withSecurePar]
  | parWrite32 t =>
    rw [exec_parWrite32 h0, exec_parWrite32 h0', accessedBank_withSecurePar, hb, directWritePar_withSecurePar]
    exact complete_withSecurePar _ v
  | parRead64 t t2 =>
    by_cases ht : t = t2
    · have hw : (Instr.parRead64 t t2).wellFormed = false := by simp [Instr.wellFormed, ht]
      rw [exec_of_not_wellFormed hw, exec_of_not_wellFormed hw]; rfl
    · rw [exec_parRead64 h0 ht, exec_parRead64 h0' ht, accessedBank_withSecurePar, hb, afterReadPar_withSecurePar,
        readPar_withSecurePar, writePair_withSecurePar, complete_withSecurePar]
  | parWrite64 t t2 =>
    rw [exec_parWrite64 h0, exec_parWrite64 h0', accessedBank_withSecurePar, hb, directWritePar_withSecurePar]
    exact complete_withSecurePar _ v
  | isb => exact complete_withSecurePar s.synchronize v
  | _ => cases hi

/-- In User mode every instruction passes the Secure instance through: it neither reads nor writes PAR. -/
theorem exec_withSecurePar_of_atEL0 {s : State} (h0 : AtEL0 s) (i : Instr) (v : DWord) :
    exec i (s.withSecurePar v) = mapNext (·.withSecurePar v) (exec i s) := by
  obtain ⟨hkeep, hpass⟩ := userModeNeitherSeesNorWritesPar i s h0
  refine (hpass { s.par with secure := v }).trans ?_
  cases hx : exec i s with
  | next t => simp only [mapNext, State.withSecurePar, (hkeep t hx).1]
  | fault => rfl
  | refused => rfl

/-! ### One instance at a time -/

/-- Every instruction leaves one of the instances as it was (R170 to R173, R211). -/
theorem exec_keeps_a_par {i : Instr} {s t : State} (h : exec i s = .next t) : ∃ b, t.par.get b = s.par.get b := by
  cases hi : atForm i with
  | none =>
    rcases access_eq_next hi h with ⟨-, rfl⟩ | ⟨-, -, ⟨-, hp, -⟩ | ⟨-, -, -, w, hp⟩ | ⟨-, -, hp, -⟩⟩
    · exact ⟨.NS, rfl⟩
    · exact ⟨.NS, by rw [hp]⟩
    · exact ⟨(accessedBank s).other, by rw [hp, Banked.get_other_set]⟩
    · exact ⟨.NS, by rw [hp]⟩
  | some p =>
    rcases at_eq_next hi h with ⟨-, rfl⟩ | ⟨-, rfl⟩ | ⟨-, hc⟩
    · exact ⟨.NS, rfl⟩
    · exact ⟨.NS, rfl⟩
    · rcases hc with ⟨-, hf, -⟩ | ⟨-, hf⟩ | ⟨hf, -⟩ | ⟨n, hf, -⟩ <;>
        exact ⟨_, hf.par.otherPar⟩

/-! ### The obligations -/

/-- Settles O43: every PAR that an instruction of Non-secure state reads or writes is the Non-secure instance, so that a
replacement of the Secure one passes through each operation. -/
theorem nonSecureStateNeverTouchesTheSecurePar : Obligations.NonSecureStateNeverTouchesTheSecurePar := by
  intro i s v ha hs _
  have hm := not_inMonitor_of_nonSecure ha hs
  cases hi : atForm i with
  | some p =>
    rw [exec_of_atForm hi, exec_of_atForm hi]
    exact atExecute_withSecurePar hs hm p.1 p.2 v
  | none =>
    by_cases h0 : AtEL0 s
    · exact exec_withSecurePar_of_atEL0 h0 i v
    · exact access_withSecurePar hi hs hm h0 v

/-- Settles O41: one of the two instances is as it was. -/
theorem atMostOneParIsWritten : Obligations.AtMostOneParIsWritten := by
  intro i s t h
  obtain ⟨b, hb⟩ := exec_keeps_a_par h
  cases b with
  | S => exact .inl hb
  | NS => exact .inr hb

end Sys2Proof.Machine
end

section
/-! PROOF. The format and the instance of a result by family and place of execution, and the ATS1C** instructions: the
result each reports in PAR (O13, O14, O15). -/

namespace Sys2Proof.Machine

/-! ### The row of an ATS1C** instruction -/

theorem format_of_ats1c {op : ATOp} (hf : op.family = .ats1c) (s : State) : format op s = formatAts1c s := by
  simp only [format, hf]

theorem target_of_ats1c {op : ATOp} (hf : op.family = .ats1c) (s : State) :
    target op s = if InHyp s then .NS else curBank s := by
  simp only [target, hf]

/-- R181 outside Hyp mode: the TTBCR.EAE of the current Security state selects the 64-bit format. -/
theorem formatAts1c_of_not_inHyp {s : State} {f : ParFmt} (hh : ¬ InHyp s)
    (hfmt : f = .f64 ↔ s.ttbcrEAE.get (parIdx s.cfg (curBank s)) = 1) : formatAts1c s = f := by
  rw [formatAts1c, if_neg hh]
  split
  · exact (hfmt.mpr ‹_›).symm
  · cases f with
    | f32 => rfl
    | f64 => exact absurd (hfmt.mp rfl) ‹_›

/-- R181: the format that the row gives. -/
theorem Ats1cRow.format_eq {op : ATOp} {s : State} {i : Bank} {f : ParFmt} (h : Ats1cRow op s i f)
    (ha : Admitted s) : format op s = f := by
  obtain ⟨hf, -, ⟨hp, -, hfmt⟩ | ⟨hn, -, hfmt⟩ | ⟨hh, -, rfl⟩⟩ := h
  · rw [format_of_ats1c hf, formatAts1c_of_not_inHyp (hp.not_inHyp ha) (by rwa [curBank_of_secure hp.1])]
  · rw [format_of_ats1c hf, formatAts1c_of_not_inHyp hn.2.2 (by rwa [curBank_of_nonSecure hn.1])]
  · rw [format_of_ats1c hf, formatAts1c, if_pos hh]

/-- R184: the instance that the row gives. -/
theorem Ats1cRow.resultBank_eq {op : ATOp} {s : State} {i : Bank} {f : ParFmt} (h : Ats1cRow op s i f)
    (ha : Admitted s) : resultBank op s = i := by
  obtain ⟨hf, -, ⟨hp, rfl, -⟩ | ⟨hn, rfl, -⟩ | ⟨hh, rfl, -⟩⟩ := h
  · rw [resultBank, target_of_ats1c hf, if_neg (hp.not_inHyp ha), curBank_of_secure hp.1]
  · rw [resultBank, target_of_ats1c hf, if_neg hn.2.2, curBank_of_nonSecure hn.1]
  · rw [resultBank, target_of_ats1c hf, if_pos hh]

/-- The format that the row of ATS1H* gives (R183). -/
theorem Ats1hRow.format_eq {op : ATOp} {s : State} {i : Bank} {f : ParFmt} (h : Ats1hRow op s i f) :
    format op s = f := by
  obtain ⟨hf, rfl, -⟩ := h
  exact format_of_ats1h hf s

/-! ### A fault that is reported -/

/-- R202: an MMU fault is reported in PAR, unless it is one of stage 2 in a Non-secure PL1 mode. -/
theorem completeAT_fault_of_stage1_or_not_nonSecurePL1 {s : State} {st : Stage} (h : NonSecurePL1 s → st = .one)
    (va : Word) (f : ParFmt) (i : Bank) (w : Bool) (c : BitVec 6) (ipa : OutAddr) :
    completeAT va f i (.fault st w c ipa) s = reportInPar i f (.fault st w c) s := by
  by_cases hn : NonSecurePL1 s
  · rw [h hn, completeAT_stage1_fault]
  · exact completeAT_fault_of_not_nonSecurePL1 hn ..

/-! ### The obligations -/

/-- Settles O14: family by family, the format and the instance of the row. -/
theorem formatAndInstanceByPlace : Obligations.FormatAndInstanceByPlace := by
  intro op s b f ha hrow
  rcases hrow with h | h | h
  · exact ⟨h.format_eq ha, h.resultBank_eq ha⟩
  · exact ⟨h.format_eq, h.resultBank_eq ha⟩
  · exact ⟨h.format_eq, h.resultBank_eq⟩

/-- Settles O15: in each place of the row the instruction executes, and its answer is reported in PAR. -/
theorem ats1cReportsItsResultInPar : Obligations.Ats1cReportsItsResultInPar := by
  intro i op r s b f hi ha hrow hp
  have hx := hrow.executes
  rw [exec_of_atForm hi, ← hrow.resultBank_eq ha, ← hrow.format_eq ha]
  refine ⟨fun oa a hans => atExecute_reports hx hans rfl (completeAT_ok ..) hp, fun st w c ipa hans hw hst => ?_⟩
  have hst' : NonSecurePL1 s.asked → st = .one := by simpa [NonSecurePL1] using hst
  exact atExecute_reports hx hans hw (completeAT_fault_of_stage1_or_not_nonSecurePL1 hst' ..) hp

/-- Settles O13: the Non-secure TTBCR.EAE is the instance that R182's test reads, with or without a Secure one. -/
theorem formatOfAts12nsoAndAts1h : Obligations.FormatOfAts12nsoAndAts1h := by
  intro i op r s _
  have hns : s.ttbcrEAE.get (parIdx s.cfg .NS) = s.ttbcrEAE.nonSecure := by rw [parIdx_NS]; rfl
  refine ⟨fun hf => ?_, fun hf => format_of_ats1h hf s⟩
  rw [format_of_ats12nso hf, formatAts12nso, hns]
  exact ⟨fun h => if_pos h, fun he hv => if_neg (not_or.mpr ⟨he, hv⟩)⟩

end Sys2Proof.Machine
end

section
/-! PROOF. The packing of a result: the fields of the general-knowledge layouts, and the laws of every packing (O45, O46,
O47). -/

namespace Sys2Proof.Machine

/-! ### Reading a placed field -/

/-- The bits a field was placed at are the field. -/
theorem field_extract_same {n lo m : Nat} (h : lo + m ≤ n) (v : BitVec m) : (field n lo v).extractLsb' lo m = v := by
  apply BitVec.eq_of_getLsbD_eq
  intro i hi
  simp only [BitVec.getLsbD_extractLsb', field_getLsbD]
  simp [hi, show lo + i < n by omega]

/-- The bits below a field are 0. -/
theorem field_extract_below {n lo m start len : Nat} (h : start + len ≤ lo) (v : BitVec m) :
    (field n lo v).extractLsb' start len = 0#len := by
  apply BitVec.eq_of_getLsbD_eq
  intro i hi
  simp [BitVec.getLsbD_extractLsb', field_getLsbD, show start + i < lo by omega]

/-- The bits above a field are 0. -/
theorem field_extract_above {n lo m start len : Nat} (h : lo + m ≤ start) (v : BitVec m) :
    (field n lo v).extractLsb' start len = 0#len := by
  apply BitVec.eq_of_getLsbD_eq
  intro i hi
  simp [BitVec.getLsbD_extractLsb', field_getLsbD, BitVec.getLsbD_of_ge v (start + i - lo) (by omega)]

theorem bit_eq_one_iff (b : Bool) : bit b = 1#1 ↔ b = true := by cases b <;> decide

/-! ### The packing of a configuration -/

section
variable {c : Cfg} (h : c.packPAR = .generalKnowledge)
include h

theorem packPAR32_of_generalKnowledge (r : ParResult) : packPAR32 c r = gkPack32 r := by
  simp only [packPAR32, lawfulPacking, h, gkPacking]

theorem packPAR64_of_generalKnowledge (r : ParResult) : packPAR64 c r = gkPack64 r := by
  simp only [packPAR64, lawfulPacking, h, gkPacking]

end

/-! ### The obligations -/

/-- Settles O45: each range of bits is that of one placed field, or of none, and every other field lies below or above
it. -/
theorem fieldsOfThe32BitFormat : Obligations.FieldsOfThe32BitFormat := by
  intro c oa a st w code hc
  simp (disch := omega) [packPAR32_of_generalKnowledge hc, gkPack32, BitVec.extractLsb'_or, field_extract_same,
    field_extract_below, field_extract_above]

/-- Settles O46, as for the 32-bit format. -/
theorem fieldsOfThe64BitFormat : Obligations.FieldsOfThe64BitFormat := by
  intro c oa a st w code hc
  simp (disch := omega) [packPAR64_of_generalKnowledge hc, gkPack64, BitVec.extractLsb'_or, field_extract_same,
    field_extract_below, field_extract_above, bit_eq_one_iff]

/-- Settles O47: the packing of a configuration is lawful, and the general-knowledge layout of the 32-bit format holds the
page address of a supersection too. -/
theorem everyPackingSatisfiesTheLaws : Obligations.EveryPackingSatisfiesTheLaws := by
  intro c st w code oa oa' a a'
  have hlaw := (lawfulPacking c).2
  refine ⟨hlaw.fault_ne_ok32 st w code oa a, hlaw.fault_ne_ok64 st w code oa a,
    fun h => ⟨hlaw.top32 _ _ _ _ h, fun hpage => ?_⟩, hlaw.page64 oa a oa' a'⟩
  rcases hpage with hgk | ⟨hss, hss'⟩
  · simp only [packPAR32_of_generalKnowledge hgk] at h
    exact gkPack32_page_inj h
  · exact hlaw.page32 _ _ _ _ h hss hss'

end Sys2Proof.Machine
end

section
/-! PROOF. The faults and aborts of the address translation instructions: the Hyp Trap, the two Data Aborts, the flag that
every completion marks, and the fault registers of an instruction that raises no exception (O20, O21, O22, O18, O39). -/

namespace Sys2Proof.Machine

/-! ### Executing in a row of R191 -/

/-- In each row of R191 an instruction completes with the format and the instance of the row, once the oracle has given a
well-formed answer (R102). -/
theorem exec_of_row {i : Instr} {op : ATOp} {r : Reg} {s : State} {b : Bank} {f : ParFmt} {ans : ATAnswer}
    (hi : atForm i = some (op, r)) (ha : Admitted s) (hrow : Ats1cRow op s b f ∨ Ats12nsoRow op s b f ∨ Ats1hRow op s b f)
    (hans : s.answer (request op (s.readX r) s) = ans)
    (hw : wellFormedAnswer s.cfg (request op (s.readX r) s) ans = true) :
    exec i s = completeAT (s.readX r) f b ans s.asked := by
  obtain ⟨hfmt, hbank⟩ := formatAndInstanceByPlace op s b f ha hrow
  subst hans
  rw [exec_of_atForm hi, atExecute_of_execute (avail_of_row ha hrow) hw, hfmt, hbank]

/-- The row of R191 that an ATS1C** instruction stands in when it is executed in a Non-secure PL1 mode (R120). -/
theorem NonSecurePL1.ats1cRow {op : ATOp} {s : State} (hn : NonSecurePL1 s) (hf : op.family = .ats1c)
    (hpan : op.pan = true → s.cfg.havePAN2 = true) : ∃ f, Ats1cRow op s .NS f := by
  refine ⟨if s.ttbcrEAE.get (parIdx s.cfg .NS) = 1 then .f64 else .f32, hf, hpan,
    .inr (.inl ⟨hn, (parIdx_NS _).symm, ?_⟩)⟩
  split
  · exact iff_of_true rfl ‹_›
  · exact iff_of_false nofun ‹_›

/-- Whatever an instruction that executes answers with, a report or an exception, it has written its target instance of PAR
and marked it (R211, R212). -/
theorem at_writesOnePar {i : Instr} {op : ATOp} {r : Reg} {s t : State} (hi : atForm i = some (op, r))
    (hx : avail op s = .execute) (h : exec i s = .next t) : WritesOnePar s t (resultBank op s) := by
  rcases at_eq_next hi h with ⟨hu, -⟩ | ⟨hu, -⟩ | ⟨-, hc⟩
  · cases hx.symm.trans hu
  · cases hx.symm.trans hu
  · rcases hc with ⟨-, hf, -⟩ | ⟨-, hf⟩ | ⟨hf, -⟩ | ⟨n, hf, -⟩
    · exact hf.par
    · exact hf.par
    · exact hf.par
    · exact hf.par

/-! ### A stage 2 fault on the walk -/

/-- R109: a stage 2 fault on the walk answers every request for the Non-secure PL1&0 regime where there is an EL2. -/
theorem stage2_fault_on_walk_wellFormed {c : Cfg} {req : ATRequest} (h2 : c.haveEL2 = true)
    (hr : req.regime = .nonSecurePL10) (code : BitVec 6) (ipa : OutAddr) :
    wellFormedAnswer c req (.fault .two true code ipa) = true := by
  simp [wellFormedAnswer, h2, hr]

/-- R201: in a Non-secure PL1 mode a stage 2 fault takes the Hyp Trap exception. -/
theorem completeAT_stage2_fault_of_nonSecurePL1 {s : State} (hn : NonSecurePL1 s) (va : Word) (f : ParFmt) (i : Bank)
    (w : Bool) (c : BitVec 6) (ipa : OutAddr) : completeAT va f i (.fault .two w c ipa) s = hypTrapOnAT va i ipa s :=
  if_pos ⟨hn, rfl⟩

/-! ### The fault registers of an External abort -/

theorem asked_faultRegisters (s : State) : SameFaultRegisters s s.asked := by constructor <;> simp

/-- `d` is the instance of DFSR and DFAR that an abort taken by `route` updates: that of the Security state of the target,
where the target is not Hyp mode or an EL3 using AArch64 (R205, R206). -/
def RecordsIn (c : Cfg) (route : AbortRoute) (d : Bank) : Prop :=
  (route = .toSecure ∧ d = parIdx c .S) ∨ (route = .toNonSecure ∧ d = parIdx c .NS)

theorem recordSyncAbort_of_recordsIn {s : State} {route : AbortRoute} {d : Bank} (h : RecordsIn s.cfg route d)
    (va : Word) : recordSyncAbort va route s =
      { s with dfsr := s.dfsr.set d .syncExternalAbortOnWalk, dfar := s.dfar.set d va } := by
  rcases h with ⟨rfl, rfl⟩ | ⟨rfl, rfl⟩
  · rfl
  · rfl

theorem recordAsyncAbort_of_recordsIn {s : State} {route : AbortRoute} {d : Bank} (h : RecordsIn s.cfg route d) :
    recordAsyncAbort route s = { s with dfsr := s.dfsr.set d .asyncExternalAbort } := by
  rcases h with ⟨rfl, rfl⟩ | ⟨rfl, rfl⟩
  · rfl
  · rfl

theorem recordAsyncAbort_toHyp_hsr (s : State) :
    ∃ n m k, (recordAsyncAbort .toHyp s).hsr =
      ⟨Config.unknown 1 n == 1, Config.unknown 1 m == 1, Config.unknown 32 k⟩ :=
  ⟨_, _, _, rfl⟩

section
variable {s : State} (va : Word) (i : Bank)

/-- R205, for a target in Secure or Non-secure state. -/
theorem syncAbortState_of_recordsIn {d : Bank} (h : RecordsIn s.cfg s.cfg.syncRoute d) :
    (syncAbortState va i s).dfsr = s.dfsr.set d .syncExternalAbortOnWalk ∧
      (syncAbortState va i s).dfar = s.dfar.set d va ∧ (syncAbortState va i s).hsr = s.hsr ∧
      (syncAbortState va i s).hdfar = s.hdfar := by
  have h' : RecordsIn ((s.unknownPar i).markDirty i).cfg s.cfg.syncRoute d := by simpa using h
  simp [syncAbortState, recordSyncAbort_of_recordsIn h']

/-- R205, for a target in Hyp mode. -/
theorem syncAbortState_of_toHyp (h : s.cfg.syncRoute = .toHyp) :
    (syncAbortState va i s).hsr.walk = true ∧ (syncAbortState va i s).hdfar = va ∧
      (syncAbortState va i s).dfsr = s.dfsr ∧ (syncAbortState va i s).dfar = s.dfar := by
  simp [syncAbortState, recordSyncAbort, h]

/-- R205, for an EL3 using AArch64, whose registers are outside the model. -/
theorem syncAbortState_of_toEL3AArch64 (h : s.cfg.syncRoute = .toEL3AArch64) :
    SameFaultRegisters s (syncAbortState va i s) := by
  constructor <;> simp [syncAbortState, recordSyncAbort, h]

/-- R206, for a target in Secure or Non-secure state. -/
theorem asyncAbortState_of_recordsIn {d : Bank} (h : RecordsIn s.cfg s.cfg.asyncRoute d) :
    (asyncAbortState i s).dfsr = s.dfsr.set d .asyncExternalAbort ∧ (asyncAbortState i s).hsr = s.hsr := by
  have h' : RecordsIn ((s.unknownPar i).markDirty i).cfg s.cfg.asyncRoute d := by simpa using h
  simp [asyncAbortState, recordAsyncAbort_of_recordsIn h']

/-- R206, for a target in Hyp mode: every field of HSR is a draw. -/
theorem asyncAbortState_of_toHyp (h : s.cfg.asyncRoute = .toHyp) :
    (asyncAbortState i s).dfsr = s.dfsr ∧
      ∃ n m k, (asyncAbortState i s).hsr = ⟨Config.unknown 1 n == 1, Config.unknown 1 m == 1, Config.unknown 32 k⟩ := by
  have hh := recordAsyncAbort_toHyp_hsr ((s.unknownPar i).markDirty i)
  rw [← h] at hh
  exact ⟨by simp [asyncAbortState, recordAsyncAbort, h], hh⟩

/-- R206, for an EL3 using AArch64, whose registers are outside the model. -/
theorem asyncAbortState_of_toEL3AArch64 (h : s.cfg.asyncRoute = .toEL3AArch64) :
    SameFaultRegisters s (asyncAbortState i s) := by
  constructor <;> simp [asyncAbortState, recordAsyncAbort, h]

end

/-! ### The obligations -/

/-- Settles O20: the answer is well formed, since the request is one for the Non-secure PL1&0 regime, and the instruction
completes with the Hyp Trap. -/
theorem stage2FaultOnTheWalkTakesTheHypTrap : Obligations.Stage2FaultOnTheWalkTakesTheHypTrap := by
  intro i op r s c ipa hi ha hf hpan hn h2 hans
  obtain ⟨f, hrow⟩ := hn.ats1cRow hf hpan
  have hw := stage2_fault_on_walk_wellFormed h2 (request_regime_of_ats1c_nonSecure hf (s.readX r) s hn.1) c ipa
  have hn' : NonSecurePL1 s.asked := by simpa [NonSecurePL1] using hn
  obtain ⟨t, ht, hframe, hwalk, hcm, hpf, hdf, hds, hda, -⟩ := hypTrapOnAT_spec (s.readX r) .NS ipa s.asked
  have hx : exec i s = .next t := by
    rw [exec_of_row hi ha (.inl hrow) hans hw, completeAT_stage2_fault_of_nonSecurePL1 hn', ht]
  have hsf := asked_faultRegisters s
  have hfr := hframe.of_asked
  exact ⟨t, hx, hfr.ended, hfr.unknown, hfr.par, hwalk, hcm, hpf, hdf, hds.trans hsf.dfsr, hda.trans hsf.dfar,
    hfr.control, hfr.x, hfr.pc⟩

/-- Settles O21: the frame of the Data Abort, and the fault registers route by route. -/
theorem syncExternalAbortTakesADataAbort : Obligations.SyncExternalAbortTakesADataAbort := by
  intro i op r s b f hi ha hrow hans
  have hx : exec i s = .next (syncAbortState (s.readX r) b s.asked) := exec_of_row hi ha hrow hans rfl
  have hsf := asked_faultRegisters s
  have hcfg : s.asked.cfg = s.cfg := (asked_control s).cfg
  obtain ⟨hframe, hpf, -⟩ := syncAbortState_frame (s.readX r) b s.asked
  have hfr := hframe.of_asked
  rw [hcfg] at hfr
  refine ⟨_, hx, hfr.ended, hfr.unknown, hfr.par, hfr.control, hfr.x, hfr.pc, hpf.trans hsf.hpfar, fun d hd => ?_,
    fun hr => ?_, fun hr => ?_⟩
  · have hd' : RecordsIn s.asked.cfg s.asked.cfg.syncRoute d := hcfg ▸ hd
    obtain ⟨hds, hda, hh, hdf⟩ := syncAbortState_of_recordsIn (s.readX r) b hd'
    simp [hds, hda, hh, hdf]
  · obtain ⟨hwalk, hdf, hds, hda⟩ := syncAbortState_of_toHyp (s.readX r) b (hcfg ▸ hr)
    exact ⟨hwalk, hdf, hds.trans hsf.dfsr, hda.trans hsf.dfar⟩
  · exact hsf.trans (syncAbortState_of_toEL3AArch64 (s.readX r) b (hcfg ▸ hr))

/-- Settles O22: the frame of the Data Abort, and the fault status register route by route. -/
theorem asyncExternalAbortTakesADataAbort : Obligations.AsyncExternalAbortTakesADataAbort := by
  intro i op r s b f hi ha hrow hans
  have hx : exec i s = .next (asyncAbortState b s.asked) := exec_of_row hi ha hrow hans rfl
  have hsf := asked_faultRegisters s
  have hcfg : s.asked.cfg = s.cfg := (asked_control s).cfg
  obtain ⟨⟨n, hframe⟩, hpf, hdf, hda, -⟩ := asyncAbortState_frame b s.asked
  have hfr := hframe.of_asked
  rw [hcfg] at hfr
  refine ⟨_, hx, ⟨n, hfr.ended⟩, hfr.unknown, hfr.par, hfr.control, hfr.x, hfr.pc, hpf.trans hsf.hpfar,
    hdf.trans hsf.hdfar, hda.trans hsf.dfar, fun d hd => ?_, fun hr => ?_, fun hr => ?_⟩
  · have hd' : RecordsIn s.asked.cfg s.asked.cfg.asyncRoute d := hcfg ▸ hd
    obtain ⟨hds, hh⟩ := asyncAbortState_of_recordsIn b hd'
    simp [hds, hh]
  · obtain ⟨hds, hh⟩ := asyncAbortState_of_toHyp (s := s.asked) b (hcfg ▸ hr)
    exact ⟨hds.trans hsf.dfsr, hh⟩
  · exact hsf.trans (asyncAbortState_of_toEL3AArch64 b (hcfg ▸ hr))

/-- Settles O18: the instruction executes, so it has marked its target instance, which is that of the row. -/
theorem everyCompletionMarksItsInstance : Obligations.EveryCompletionMarksItsInstance := by
  intro i op r s t b f hi ha hrow h
  obtain ⟨-, hbank⟩ := formatAndInstanceByPlace op s b f ha hrow
  have hw : WritesOnePar s t b := hbank ▸ at_writesOnePar hi (avail_of_row ha hrow) h
  exact ⟨fun hsync => ⟨by simp [hw.dirty, hsync], hw.otherDirty⟩, hw.parDirty_of_immediate⟩

/-- Settles O39: an instruction after which no exception has been taken has completed, and the frame of a completion keeps
the fault registers. -/
theorem faultRegistersChangeOnlyWithAnException : Obligations.FaultRegistersChangeOnlyWithAnException :=
  fun _ _ _ h _ ht => (exec_completion h ht).faultRegisters

end Sys2Proof.Machine
end

section
/-! PROOF. When a step runs no instruction, the Undefined Instruction exception and the trap to EL3 (O7, O23, O24). -/

namespace Sys2Proof.Machine

/-! ### A fetch that answers no instruction -/

section
variable {s : State}

/-- R230: after an exception nothing is fetched. -/
theorem fetch_of_ended {r : ExceptionRecord} (he : s.ended = some r) : fetch s = .fault (.exceptionOutcome r) := by
  simp only [fetch, he]

theorem fetch_of_not_admitted (he : s.ended = none) (ha : ¬ Admitted s) : fetch s = .refused .outsideConfiguration := by
  simp only [fetch, he]
  exact if_pos ha

theorem fetch_of_misaligned (he : s.ended = none) (ha : Admitted s) (hp : s.pc.toNat % 4 ≠ 0) :
    fetch s = .refused .pcMisaligned := by
  simp only [fetch, he]
  rw [if_neg (not_not_intro ha), if_pos hp]

theorem fetch_of_unlisted (he : s.ended = none) (ha : Admitted s) (hp : s.pc.toNat % 4 = 0)
    (hw : s.mem.word s.pc = none) : fetch s = .fault (.fetchUnlisted s.pc) := by
  simp only [fetch, he]
  rw [if_neg (not_not_intro ha), if_neg (not_not_intro hp)]
  simp only [hw]

theorem fetch_of_undecodable {w : Word} {e : DecodeError} (he : s.ended = none) (ha : Admitted s)
    (hp : s.pc.toNat % 4 = 0) (hw : s.mem.word s.pc = some w) (hd : decode w = .error e) :
    fetch s = .refused (.undecodable e) := by
  simp only [fetch, he]
  rw [if_neg (not_not_intro ha), if_neg (not_not_intro hp)]
  simp only [hw, hd]

theorem step_of_fetch_fault {f : Fault} (h : fetch s = .fault f) : step s = .fault f := by
  simp only [step, h]

theorem step_of_fetch_refused {e : Refusal} (h : fetch s = .refused e) : step s = .refused e := by
  simp only [step, h]

end

/-! ### The cases of availability outside User mode -/

section
variable {op : ATOp} {s : State}

theorem avail_of_ats1c (hf : op.family = .ats1c) (h0 : ¬ AtEL0 s) : avail op s = availAts1c op s := by
  simp only [avail, if_neg h0, hf]

theorem avail_of_ats12nso (hf : op.family = .ats12nso) (h0 : ¬ AtEL0 s) : avail op s = availAts12nso s := by
  simp only [avail, if_neg h0, hf]

theorem avail_of_ats1h (hf : op.family = .ats1h) (h0 : ¬ AtEL0 s) : avail op s = availAts1h s := by
  simp only [avail, if_neg h0, hf]

/-- User mode is UNDEFINED (R103 case (1)), so that only the other modes are left to show. -/
theorem avail_undefined_of_outside_EL0 (h : ¬ AtEL0 s → avail op s = .undefined) : avail op s = .undefined := by
  by_cases h0 : AtEL0 s
  · exact avail_of_atEL0 op h0
  · exact h h0

/-- R103 case (2). -/
theorem avail_ats1c_pan_without_PAN2 (hf : op.family = .ats1c) (hp : op.pan = true) (hc : s.cfg.havePAN2 = false) :
    avail op s = .undefined :=
  avail_undefined_of_outside_EL0 fun h0 => (avail_of_ats1c hf h0).trans (if_pos ⟨hp, hc⟩)

/-- R103 case (4). -/
theorem avail_ats12nso_without_EL2_EL3 (hf : op.family = .ats12nso) (h2 : s.cfg.haveEL2 = false)
    (h3 : s.cfg.haveEL3 = false) : avail op s = .undefined :=
  avail_undefined_of_outside_EL0 fun h0 => (avail_of_ats12nso hf h0).trans (if_pos ⟨h2, h3⟩)

/-- R103 case (5). -/
theorem avail_ats12nso_of_securePL1_el3AArch64 (hf : op.family = .ats12nso) (hp : SecurePL1 s)
    (h3 : s.cfg.haveEL3 = true) (h64 : s.cfg.el3IsAArch32 = false) : avail op s = .trapToEL3 := by
  have hno : ¬ (s.cfg.haveEL2 = false ∧ s.cfg.haveEL3 = false) := fun h => by cases h.2.symm.trans h3
  rw [avail_of_ats12nso hf hp.2, availAts12nso, if_neg hno, if_pos ⟨hp, h3, h64⟩]

/-- R103 case (9). -/
theorem avail_ats1h_without_EL2 (hf : op.family = .ats1h) (h2 : s.cfg.haveEL2 = false) : avail op s = .undefined :=
  avail_undefined_of_outside_EL0 fun h0 => (avail_of_ats1h hf h0).trans (if_pos h2)

theorem NonSecurePL1.not_securePL1 (hn : NonSecurePL1 s) : ¬ SecurePL1 s := fun hp => by cases hn.1.symm.trans hp.1

/-- R103 case (8): no earlier case speaks of a Non-secure PL1 mode and executes or traps. -/
theorem avail_ats12nso_of_nonSecurePL1 (hf : op.family = .ats12nso) (hn : NonSecurePL1 s) : avail op s = .undefined := by
  have ⟨_, h0, hh⟩ := hn
  simp only [avail_of_ats12nso hf h0, availAts12nso, hn.not_securePL1, hh, false_and, if_false, ite_self]

/-- R103 case (13): no earlier case speaks of a Non-secure PL1 mode and executes. -/
theorem avail_ats1h_of_nonSecurePL1 (hf : op.family = .ats1h) (ha : Admitted s) (hn : NonSecurePL1 s) :
    avail op s = .undefined := by
  have ⟨_, h0, hh⟩ := hn
  simp only [avail_of_ats1h hf h0, availAts1h, hn.not_securePL1, hh, hn.not_inMonitor ha, if_false, ite_self]

end

/-! ### The exceptions of the template -/

section
variable {i : Instr} {op : ATOp} {r : Reg} {s : State} (hi : atForm i = some (op, r))
include hi

/-- Only names of the family ATS1C** take account of PSTATE.PAN (R101). -/
theorem family_of_pan (hp : op.pan = true) : op.family = .ats1c := by
  cases i with
  | ats1cprp t | ats1cpwp t => cases hi; rfl
  | parRead32 t | parWrite32 t | parRead64 t t2 | parWrite64 t t2 | isb => cases hi
  | _ => cases hi; cases hp

/-- The state is the same but for the record (R221). -/
theorem exec_of_avail_undefined (h : avail op s = .undefined) :
    exec i s = .next { s with ended := some ⟨.undefinedInstruction, .notInSource, s.pc, false⟩ } := by
  rw [exec_of_atForm hi, atExecute, h]; rfl

/-- The state is the same but for the record (R222). -/
theorem exec_of_avail_trapToEL3 (h : avail op s = .trapToEL3) :
    exec i s = .next { s with ended := some ⟨.trapToEL3 op, .el3, s.pc, false⟩ } := by
  rw [exec_of_atForm hi, atExecute, h]; rfl

end

/-! ### The obligations -/

/-- Settles O7: in each case the fetch answers no instruction, and the step answers with what the fetch says. -/
theorem stepsThatRunNothing : Obligations.StepsThatRunNothing := by
  intro s
  refine ⟨fun r he => ?_, fun he ha => ?_, fun he ha hp => ?_, fun he ha hp hw => ?_, fun w e he ha hp hw hd => ?_⟩
  · exact step_of_fetch_fault (fetch_of_ended he)
  · exact step_of_fetch_refused (fetch_of_not_admitted he ha)
  · exact step_of_fetch_refused (fetch_of_misaligned he ha hp)
  · exact step_of_fetch_fault (fetch_of_unlisted he ha hp hw)
  · exact step_of_fetch_refused (fetch_of_undecodable he ha hp hw hd)

/-- Settles O23: User mode for every instruction but ISB, and each other case by the case of R103 that it falls under. -/
theorem undefinedInstructionCases : Obligations.UndefinedInstructionCases := by
  intro i s
  refine ⟨exec_of_atEL0, fun op r hi => ⟨fun hp hc => ?_, fun hf h2 h3 => ?_, fun hf h2 => ?_, fun hf ha hn => ?_⟩⟩
  · exact exec_of_avail_undefined hi (avail_ats1c_pan_without_PAN2 (family_of_pan hi hp) hp hc)
  · exact exec_of_avail_undefined hi (avail_ats12nso_without_EL2_EL3 hf h2 h3)
  · exact exec_of_avail_undefined hi (avail_ats1h_without_EL2 hf h2)
  · rcases hf with hf | hf
    · exact exec_of_avail_undefined hi (avail_ats12nso_of_nonSecurePL1 hf hn)
    · exact exec_of_avail_undefined hi (avail_ats1h_of_nonSecurePL1 hf ha hn)

/-- Settles O24: the verdict there is the trap, R103 case (5). -/
theorem ats12nsoTrapsToEL3 : Obligations.Ats12nsoTrapsToEL3 := by
  intro i op r s hi hf hp h3 h64
  exact exec_of_avail_trapToEL3 hi (avail_ats12nso_of_securePL1_el3AArch64 hf hp h3 h64)

end Sys2Proof.Machine
end

section
/-! PROOF. The first step after reset, and the read of a result that an ISB has made visible (O10, O34). -/

namespace Sys2Proof.Machine

/-! ### A word placed at `pc` -/

/-- A word is the 32-bit table word of its value. -/
@[simp] theorem tableWord_toNat (w : Word) : tableWord 32 w.toNat = w := by
  rw [tableWord, Nat.mod_eq_of_lt w.isLt, BitVec.ofNat_toNat, BitVec.setWidth_eq]

/-- Where a fetch is possible at all, a step runs the well-formed instruction whose word stands at `pc` (R63, R88). -/
theorem step_withFetchWord_encode {s : State} {i : Instr} (he : s.ended = none) (ha : Admitted s)
    (hp : s.pc.toNat % 4 = 0) (hi : i.wellFormed = true) :
    step (s.withFetchWord 32 (encode i).toNat) = exec i (s.withFetchWord 32 (encode i).toNat) := by
  have hw : (s.withFetchWord 32 (encode i).toNat).mem.word s.pc = some (encode i) := by
    simp [State.withFetchWord]
  exact step_of_fetch (fetch_of_word he ha hp hw (decodeInvertsEncode i hi))

/-! ### A read after an ISB -/

/-- An address translation instruction that completes without an exception was not executed in User mode (R103 case (1)). -/
theorem not_atEL0_of_at_completes {i : Instr} {op : ATOp} {r : Reg} {s t : State} (hi : atForm i = some (op, r))
    (h : exec i s = .next t) (ht : t.ended = none) : ¬ AtEL0 s := by
  intro h0
  cases (exec_of_avail_undefined hi (avail_of_atEL0 op h0)).symm.trans h
  cases ht

/-- After an ISB a read of either instance gives what the instance held before it: no result is pending any more (R175,
R176). -/
theorem readPar_after_isb {s t : State} (h : exec .isb s = .next t) (b : Bank) : t.readPar b = s.par.get b := by
  obtain ⟨-, rfl⟩ := State.complete_eq_next h
  exact State.readPar_of_clean (by cases b <;> rfl)

/-- An ISB and then a 64-bit read at PL1 or higher give both halves of the instance the read reaches (R172, R176, R256). -/
theorem isb_then_parRead64 {u u2 : Reg} {s s1 s2 : State} (h0 : ¬ AtEL0 s) (h1 : exec .isb s = .next s1)
    (h2 : exec (.parRead64 u u2) s1 = .next s2) :
    s2.readX u = (s.par.get (accessedBank s)).low ∧ s2.readX u2 = (s.par.get (accessedBank s)).high := by
  have hctl := exec_sameControl h1
  obtain ⟨-, -, hlow, hhigh, -⟩ := parRead64_eq_next (by rwa [AtEL0, hctl.mode]) h2
  rw [hlow, hhigh, readPar_after_isb h1, accessedBank_of_sameControl hctl]
  exact ⟨rfl, rfl⟩

/-! ### The obligations -/

/-- Settles O10: the reset state is a launch state, so a fetch is possible there. -/
theorem everyInstructionRunsFirstAfterReset : Obligations.EveryInstructionRunsFirstAfterReset := by
  intro i hi
  obtain ⟨hinv, -, he⟩ := resetIsALaunchState
  exact step_withFetchWord_encode he hinv.admitted hinv.aligned hi

/-- Settles O34: the translation leaves the mode and the instance that a direct access reaches as they were, and the ISB
makes what it left in that instance visible to the read. -/
theorem synchronisedReadSeesTheResult : Obligations.SynchronisedReadSeesTheResult := by
  intro i op r u u2 s s1 s2 s3 hi _ h ht hisb hread
  have hctl := exec_sameControl h
  have h0 : ¬ AtEL0 s1 := by
    rw [AtEL0, hctl.mode]
    exact not_atEL0_of_at_completes hi h ht
  rw [← accessedBank_of_sameControl hctl]
  exact isb_then_parRead64 h0 hisb hread

end Sys2Proof.Machine
end
